-- ==== Sys2Proof/Word.lean ====
section
/-! DEFINITION. The word types of BBM-RHE: a byte is 8 bits (00_scope.md R11), every register, table
entry, counter and command word is 64 bits (00_scope.md R10; 30_encoding.md R86). All values are
unsigned (R11). -/

namespace Sys2Proof

/-- A 64-bit unsigned value (00_scope.md R11). -/
abbrev Word := BitVec 64

/-- An 8-bit unsigned value, 0 to 255 (00_scope.md R11). -/
abbrev Byte := BitVec 8

/-- `zext_64` of a byte (00_scope.md R11). -/
abbrev Byte.toWord (b : Byte) : Word := b.setWidth 64

end Sys2Proof
end

