-- ==== Sys2Proof/Syntax.lean ====
section
/-! DEFINITION. The commands of BBM-RHE: one constructor per row of spec/opcode_table.json
(30_encoding.md R91). -/

namespace Sys2Proof

/-- A decoded command word. No command names a register; every operand is a byte or a byte count
(30_encoding.md R90). -/
inductive Instr where
  /-- `nop`, OPC 0x00, the hint space: `OPA` and `DATA` are kept in the syntax and ignored by the
  machine (30_encoding.md R95). -/
  | nop (opa : Byte) (data : BitVec 48)
  /-- `cfg`, OPC 0x01, CONFIGURE (42_chunker.md R152). -/
  | cfg
  /-- `upd b`, OPC 0x02, UPDATE_BYTE (42_chunker.md R155). -/
  | upd (b : Byte)
  /-- `updp b0, ..., b(n-1)`, OPC 0x03, UPDATE_PACKED, 1 to 6 bytes in stream order
  (42_chunker.md R156; 30_encoding.md R89). -/
  | updp (bytes : List Byte)
  /-- `fin`, OPC 0x04, FINALIZE (43_output.md R190). -/
  | fin
  /-- `pop`, OPC 0x05, POP (43_output.md R195). -/
  | pop
  /-- `roll b`, OPC 0x06, ROLL (41_rolling_hash.md R133). -/
  | roll (b : Byte)
  /-- `hrst`, OPC 0x07, HASH_RESET (41_rolling_hash.md R135). -/
  | hrst
  deriving DecidableEq, Repr

/-- The opcode `OPC` of a command (30_encoding.md R91). -/
def Instr.opcode : Instr → Byte
  | .nop _ _ => 0x00
  | .cfg => 0x01
  | .upd _ => 0x02
  | .updp _ => 0x03
  | .fin => 0x04
  | .pop => 0x05
  | .roll _ => 0x06
  | .hrst => 0x07

end Sys2Proof
end

