-- ==== Sys2Proof/WellFormed.lean ====
section
/-! DEFINITION. Which terms of `Instr` stand for a command word: all but an `updp` whose byte count
is not 1 to 6 (30_encoding.md R88, R92). -/

namespace Sys2Proof

/-- The check on an instruction's operands. Bytes are bytes by their type; the one count is that of
`updp`, "legal 1 to 6" (30_encoding.md R88). -/
def Instr.wf : Instr → Bool
  | .nop _ _ => true
  | .cfg => true
  | .upd _ => true
  | .updp bytes => decide (1 ≤ bytes.length) && decide (bytes.length ≤ 6)
  | .fin => true
  | .pop => true
  | .roll _ => true
  | .hrst => true

end Sys2Proof
end

