-- ==== Sys2Proof/Decode.lean ====
section
/-! DEFINITION. The decoder of 30_encoding.md R97, total on every 64-bit word and answering `none`
for ILLEGAL, and after it the encoder of R98. -/

namespace Sys2Proof

/-- `OPC = word[7:0]` (30_encoding.md R87). -/
def opcField (w : Word) : Byte := w.extractLsb' 0 8

/-- `OPA = word[15:8]` (30_encoding.md R88). -/
def opaField (w : Word) : Byte := w.extractLsb' 8 8

/-- `DATA = word[63:16]` (30_encoding.md R86). -/
def dataField (w : Word) : BitVec 48 := w.extractLsb' 16 48

/-- Byte `k` of the sequence an UPDATE_PACKED word carries: `word[16+8k+7 : 16+8k]`
(30_encoding.md R89). -/
def packedByte (w : Word) (k : Nat) : Byte := w.extractLsb' (16 + 8 * k) 8

/-- The `n` carried bytes in stream order (30_encoding.md R89). -/
def packedBytes (w : Word) (n : Nat) : List Byte := (List.range n).map (packedByte w)

/-- "Bits `word[63 : 16 + 8*n]` must be 0 (for `n = 6` there are none)" (30_encoding.md R89). -/
def tailClear (w : Word) (n : Nat) : Bool := w >>> (16 + 8 * n) == 0

/-- The custom space, opcodes 0x80 to 0xFF, in which "this spec defines none" (30_encoding.md R94). -/
def isCustomWord (w : Word) : Bool := decide (0x80 ≤ (opcField w).toNat)

/-- The decoder of 30_encoding.md R97; `none` is its ILLEGAL. -/
def decode (w : Word) : Option Instr :=
  let opa := opaField w
  let data := dataField w
  match (opcField w).toNat with
  | 0x00 => some (.nop opa data)
  | 0x01 => if opa = 0 ∧ data = 0 then some .cfg else none
  | 0x02 => if data = 0 then some (.upd opa) else none
  | 0x03 =>
    if opa.toNat < 1 ∨ 6 < opa.toNat then none
    else if tailClear w opa.toNat then some (.updp (packedBytes w opa.toNat)) else none
  | 0x04 => if opa = 0 ∧ data = 0 then some .fin else none
  | 0x05 => if opa = 0 ∧ data = 0 then some .pop else none
  | 0x06 => if data = 0 then some (.roll opa) else none
  | 0x07 => if opa = 0 ∧ data = 0 then some .hrst else none
  | _ => none

/-- The bytes of an UPDATE_PACKED laid out from bit 0 up, the first byte lowest
(30_encoding.md R89). -/
def packData : List Byte → Word
  | [] => 0
  | b :: rest => b.setWidth 64 ||| (packData rest <<< 8)

/-- A word of format C from its three fields (30_encoding.md R86). -/
def formatC (data : BitVec 48) (opa opc : Byte) : Word :=
  (data.setWidth 64 <<< 16) ||| (opa.setWidth 64 <<< 8) ||| opc.setWidth 64

/-- The word of a command (30_encoding.md R98). -/
def encode : Instr → Word
  | .nop opa data => formatC data opa 0x00
  | .cfg => formatC 0 0 0x01
  | .upd b => formatC 0 b 0x02
  | .updp bytes => (packData bytes <<< 16) ||| (BitVec.ofNat 64 bytes.length <<< 8) ||| 0x03
  | .fin => formatC 0 0 0x04
  | .pop => formatC 0 0 0x05
  | .roll b => formatC 0 b 0x06
  | .hrst => formatC 0 0 0x07

/-- The instruction the decoder reads from a word whose low `nbits` bits are those of `w` and whose
other bits are 0. A command is one 64-bit word that the bus moves whole (30_encoding.md R96;
20_memory.md R62), so bit `k` of the table's numbering is bit `k` of the word. -/
def decodeTableWord (nbits w : Nat) : Option Instr := decode (BitVec.ofNat 64 (w % 2 ^ nbits))

end Sys2Proof
end

