-- ==== Sys2Proof/Config.lean ====
section
/-! DEFINITION. The implementation parameters of 00_scope.md R8, fixed for a given build, with their
legal ranges carried as proofs, so that every `Config` is a legal build; and `Config.build`, the one
build that `step` and `exec` run. What the spec leaves OPEN without a value is an opaque constant: no
proof and no evaluation can see what it is (logs 1, 2, 10). -/

namespace Sys2Proof

/-- How the tables are built (00_scope.md R8; 40_polynomial_table.md R119). -/
inductive TableStrategy where
  | runtime
  | const64
  deriving DecidableEq, Repr

/-- Which count the fast-skip test reads (00_scope.md R8; 92_eei_decisions.md D5): the count before
(`pre`) or after (`post`) this byte's increment. -/
inductive SkipCompare where
  | pre
  | post
  deriving DecidableEq, Repr

/-- The parameters of 00_scope.md R8 and `DEV_BASE` of 20_memory.md R60. None of them is state. -/
structure Config where
  /-- Bits 62:0 of `POLY`; bit 63 is set by `Config.poly`, as R112 demands of every legal `POLY`. -/
  polyLow : BitVec 63
  /-- `TABLE_STRATEGY`. -/
  tableStrategy : TableStrategy
  /-- `WIN_CAP`, 1 to 8192. -/
  winCap : Nat
  winCap_legal : 1 ≤ winCap ∧ winCap ≤ 8192
  /-- "`CONST64` requires at least 64" (R8). -/
  const64_legal : tableStrategy = .const64 → 64 ≤ winCap
  /-- `DL_C`, 1 to 128. -/
  dlC : Nat
  dlC_legal : 1 ≤ dlC ∧ dlC ≤ 128
  /-- `ChunkDigest`, a total function from byte sequences to `DL_C` bytes (R13). -/
  chunkDigest : List Byte → Vector Byte dlC
  /-- `DL_S`, 1 to 128. -/
  dlS : Nat
  dlS_legal : 1 ≤ dlS ∧ dlS ≤ 128
  /-- `StreamDigest`, a total function from byte sequences to `DL_S` bytes (R13), independent of
  `ChunkDigest` (43_output.md R200). -/
  streamDigest : List Byte → Vector Byte dlS
  /-- `QCAP`: a positive number of records, or `none` for `INF`. -/
  qCap : Option Nat
  qCap_legal : qCap ≠ some 0
  /-- `N_INST`, 1 to 16. -/
  nInst : Nat
  nInst_legal : 1 ≤ nInst ∧ nInst ≤ 16
  /-- `DEV_BASE` (20_memory.md R60). -/
  devBase : Nat
  /-- The reading switch `SKIP_COMPARE`. -/
  skipCompare : SkipCompare
  /-- The reading switch `ZIP_REMATCH`. -/
  zipRematch : Bool

/-- `POLY`, the modulus polynomial `P` (40_polynomial_table.md R110), with bit 63 set (R112): the
legal values of `POLY` are exactly these, one for each value of `polyLow`. -/
def Config.poly (c : Config) : Word := 0x8000000000000000 ||| c.polyLow.setWidth 64

/-- Bits 62:0 of the build's `POLY`: OPEN, a free value (log 1). -/
opaque Config.freePolyLow : BitVec 63

/-- The build's `DL_C` less one: OPEN, a free value (log 2). -/
opaque Config.freeDlC : Fin 128

/-- The build's `DL_S` less one: OPEN, a free value (log 2). -/
opaque Config.freeDlS : Fin 128

/-- The build's `ChunkDigest`: OPEN, a free value (log 2). -/
opaque Config.freeChunkDigest : List Byte → Vector Byte (Config.freeDlC.val + 1)

/-- The build's `StreamDigest`: OPEN, a free value (log 2). -/
opaque Config.freeStreamDigest : List Byte → Vector Byte (Config.freeDlS.val + 1)

/-- The build's `DEV_BASE`: OPEN, a free value (log 10). -/
opaque Config.freeDevBase : Nat

/-- The build that `step` and `exec` run: the spec's value for every parameter that has one, the
spec's default for `TABLE_STRATEGY` and `WIN_CAP` (log 3, log 4), free values for the rest. -/
def Config.build : Config where
  polyLow := Config.freePolyLow
  tableStrategy := .runtime
  winCap := 8192
  winCap_legal := by decide
  const64_legal := by decide
  dlC := Config.freeDlC.val + 1
  dlC_legal := ⟨Nat.le_add_left 1 _, Config.freeDlC.isLt⟩
  chunkDigest := Config.freeChunkDigest
  dlS := Config.freeDlS.val + 1
  dlS_legal := ⟨Nat.le_add_left 1 _, Config.freeDlS.isLt⟩
  streamDigest := Config.freeStreamDigest
  qCap := none
  qCap_legal := by decide
  nInst := 1
  nInst_legal := by decide
  devBase := Config.freeDevBase
  skipCompare := .pre
  zipRematch := false

end Sys2Proof
end

