-- ==== Sys2Proof/Machine/State.lean ====
section
/-! DEFINITION. The state of BBM-RHE: the record of one engine instance, with exactly the rows of
10_state.md R21, and around it what the host interface needs (the instances of the device window, the
host's accesses still to be performed, the value of the last read). Plain data throughout. -/

namespace Sys2Proof.Machine

/-- Bytes by address, in canonical form: addresses strictly rising and no byte 0, which is what an
unlisted address reads as: the reset contents of every byte window (10_state.md R46; log 14). -/
abbrev Memory := List Host.Cell

/-- 256 entries of 64 bits (10_state.md R43). -/
abbrev Table := Vector Word 256

/-- The outcome codes of 60_exceptions.md R221. Codes 8 to 15 are never produced. -/
inductive ErrCode where
  /-- 0 `NONE`: success. -/
  | none
  /-- 1 `CFG_AVG`: `CFG_AVG` is 0 or not a power of two. -/
  | cfgAvg
  /-- 2 `CFG_WINDOW`: `CFG_WINDOW` is 0, above `WIN_CAP`, or not 64 under `CONST64`. -/
  | cfgWindow
  /-- 3 `NOT_CONFIGURED`. -/
  | notConfigured
  /-- 4 `ILLEGAL_CMD`. -/
  | illegalCmd
  /-- 5 `QUEUE_OVERFLOW`, fatal. -/
  | queueOverflow
  /-- 6 `COUNT_OVERFLOW`, fatal. -/
  | countOverflow
  /-- 7 `HALTED`. -/
  | halted
  deriving DecidableEq, Repr

/-- A completed chunk record (10_state.md R36). -/
structure Chunk where
  size : Word
  digest : List Byte
  deriving DecidableEq, Repr

/-- The architectural state of one engine: one field per row of 10_state.md R21. -/
structure Engine where
  /-- `CONFIGURED` (R22). -/
  configured : Bool
  /-- `CFG_WINDOW` (R24). -/
  cfgWindow : Word
  /-- `CFG_MIN` (R24). -/
  cfgMin : Word
  /-- `CFG_AVG` (R24). -/
  cfgAvg : Word
  /-- `CFG_MAX` (R24). -/
  cfgMax : Word
  /-- `CFG_FLAGS` (R26). -/
  cfgFlags : Word
  /-- `ACT_WINDOW` (R25). -/
  actWindow : Word
  /-- `ACT_MIN` (R25). -/
  actMin : Word
  /-- `ACT_AVG` (R25). -/
  actAvg : Word
  /-- `ACT_MAX` (R25). -/
  actMax : Word
  /-- `ACT_FLAGS` (R25). -/
  actFlags : Word
  /-- `SHIFT[0..255]` (R43). -/
  shift : Table
  /-- `DROP[0..255]` (R43). -/
  drop : Table
  /-- `HASH` (R27). -/
  hash : Word
  /-- `WIN[0..WIN_CAP-1]` (R31). -/
  win : Memory
  /-- `CURSOR` (R32). -/
  cursor : Word
  /-- `CHUNK_SIZE` (R29). -/
  chunkSize : Word
  /-- `ZIP_CNT`, 0 to 4 (R33). -/
  zipCnt : Fin 5
  /-- `CACC` (R34). -/
  cacc : List Byte
  /-- `TOTAL` (R30). -/
  total : Word
  /-- `SACC` (R35). -/
  sacc : List Byte
  /-- `Q`, oldest record first (R36). -/
  q : List Chunk
  /-- `OUT_VALID` (R37). -/
  outValid : Bool
  /-- `OUT_SIZE` (R37). -/
  outSize : Word
  /-- `OUT_DIGEST`, byte `k` at address `k` (R37). -/
  outDigest : Memory
  /-- `STATS_VALID` (R39). -/
  statsValid : Bool
  /-- `STATS_SIZE` (R39). -/
  statsSize : Word
  /-- `STATS_DIGEST`, byte `k` at address `k` (R39). -/
  statsDigest : Memory
  /-- `ERR` (R41). -/
  err : ErrCode
  /-- `FAULT` (R42). -/
  fault : Bool
  deriving DecidableEq, Repr

/-- The state of one engine after power-on reset (10_state.md R46). -/
def Engine.reset : Engine where
  configured := false
  cfgWindow := 64
  cfgMin := 8192
  cfgAvg := 16384
  cfgMax := 32768
  cfgFlags := 0
  actWindow := 0
  actMin := 0
  actAvg := 0
  actMax := 0
  actFlags := 0
  shift := Vector.replicate 256 0
  drop := Vector.replicate 256 0
  hash := 0
  win := []
  cursor := 0
  chunkSize := 0
  zipCnt := 0
  cacc := []
  total := 0
  sacc := []
  q := []
  outValid := false
  outSize := 0
  outDigest := []
  statsValid := false
  statsSize := 0
  statsDigest := []
  err := .none
  fault := false

/-- An engine and the number of the agent that owns it: "exactly one host agent per instance"
(20_memory.md R71; log 8). -/
structure EngineInstance where
  engine : Engine
  owner : Nat
  deriving DecidableEq, Repr

/-- Whether an access reads or writes; a write carries its value. -/
inductive AccessKind where
  | read
  | write (value : Word)
  deriving DecidableEq, Repr

/-- A host access: `HostRead(off, size)` or `HostWrite(off, size, value)` on an instance of the
window, by an agent. "Addresses inside the window are 14-bit offsets plus the 4-bit instance number"
(20_memory.md R60). -/
structure Access where
  agent : Nat
  inst : BitVec 4
  off : BitVec 14
  size : Nat
  kind : AccessKind
  deriving DecidableEq, Repr

/-- What comes to the device from outside: an access of the host (00_scope.md R19) or power-on reset
(70_reset_and_hazards.md R250; log 18). -/
inductive HostEvent where
  | access (a : Access)
  | powerOnReset
  deriving DecidableEq, Repr

/-- The machine: the engine instances of the device window, and the host's side of it. -/
structure State where
  /-- The `N_INST` instances, by number (60_exceptions.md R238). -/
  instances : List EngineInstance
  /-- The instance number of the access being performed (log 6). -/
  cur : BitVec 4
  /-- What the host has still to do, in program order (20_memory.md R70; log 5). -/
  pending : List HostEvent
  /-- The value the host's last read returned (log 7). -/
  readData : Option Word
  deriving DecidableEq, Repr

/-- Why the machine stops. -/
inductive Fault where
  /-- Raised by `onEngine`, `illegalWrite` and `perform` when the access names an instance number at or above the
  number of instances: an address outside the device window (20_memory.md R60). Safe: no next
  state is claimed. -/
  | noSuchInstance
  deriving DecidableEq, Repr

/-- What the model gives no meaning. -/
inductive Refusal where
  /-- Raised by `exec`'s arm of an instruction that has no meaning yet. Safe. -/
  | notModelled (mnemonic : String)
  /-- Raised by `perform` for an access whose width or alignment 20_memory.md R63 does not permit;
  "a model refuses such an access" (R63; 60_exceptions.md R229). Safe. -/
  | busError
  /-- Raised by `perform` for an access by an agent that does not own the instance: "the model
  refuses it" (20_memory.md R71). Safe. -/
  | secondAgent
  /-- Raised by `illegalWrite` for a word of the custom space written to CMD of an engine that is not
  faulted: "a model refuses it" (30_encoding.md R94; 93_implementation_defined.md U14; log 11). Safe. -/
  | customCommand
  deriving DecidableEq, Repr

/-- The machine right after power-on reset: every instance at `Engine.reset`, unconfigured
(70_reset_and_hazards.md R250, R251); the host has issued nothing yet (logs 5 to 8). -/
def State.reset : State where
  instances := List.replicate Config.build.nInst ⟨Engine.reset, 0⟩
  cur := 0
  pending := []
  readData := none

end Sys2Proof.Machine
end

