-- ==== Sys2Proof/Machine/Ops.lean ====
section
/-! DEFINITION. The shared operations: byte memories, GF(2) reduction, reporting an outcome (the
nearest thing this hardware has to taking an exception), the guard every command passes, and acting on
the instance an access names. -/

namespace Sys2Proof.Machine

/-! ### Byte memories -/

/-- The byte at an address; 0 where nothing is listed (10_state.md R46). -/
def Memory.read : Memory → Nat → Byte
  | [], _ => 0
  | (k, v) :: rest, a => if k = a then v else Memory.read rest a

/-- Store a byte, keeping the canonical form: storing 0 removes the entry. -/
def Memory.write : Memory → Nat → Byte → Memory
  | [], a, b => if b = 0 then [] else [(a, b)]
  | (k, v) :: rest, a, b =>
    if a < k then (if b = 0 then (k, v) :: rest else (a, b) :: (k, v) :: rest)
    else if a = k then (if b = 0 then rest else (a, b) :: rest)
    else (k, v) :: Memory.write rest a b

/-- The canonical form: addresses strictly rising, no entry 0. -/
def Memory.wf (m : Memory) : Bool :=
  decide (m.Pairwise fun x y => x.1 < y.1) && m.all fun x => x.2 != 0

/-- The memory that holds the given bytes from address `k` on and 0 elsewhere. -/
def Memory.ofBytesFrom : Nat → List Byte → Memory
  | _, [] => []
  | k, b :: rest =>
    if b = 0 then Memory.ofBytesFrom (k + 1) rest else (k, b) :: Memory.ofBytesFrom (k + 1) rest

/-- The memory that holds byte `k` of a byte string at address `k` and 0 above it. -/
def Memory.ofBytes (bytes : List Byte) : Memory := Memory.ofBytesFrom 0 bytes

/-- Eight bytes from an address, "little-endian: `value = sum over k in 0..7 of byte(o+k) << (8*k)`"
(20_memory.md R62(b)), for any way of reading one byte. -/
def littleEndian8 (byteAt : Nat → Byte) (o : Nat) : Word :=
  (byteAt o).toWord ||| ((byteAt (o + 1)).toWord <<< 8) ||| ((byteAt (o + 2)).toWord <<< 16) |||
    ((byteAt (o + 3)).toWord <<< 24) ||| ((byteAt (o + 4)).toWord <<< 32) |||
    ((byteAt (o + 5)).toWord <<< 40) ||| ((byteAt (o + 6)).toWord <<< 48) |||
    ((byteAt (o + 7)).toWord <<< 56)

/-! ### GF(2) arithmetic -/

/-- `bitlen(v)`: "the position of its highest set bit, counted from 1", 0 for 0 (00_scope.md R12). -/
def bitlen (v : Nat) : Nat := if v = 0 then 0 else v.log2 + 1

/-- The loop of 40_polynomial_table.md R111 for a modulus `m` of bit-degree `dm`, at most `fuel`
passes. Each pass lowers the bit length of the value, so `bitlen value` passes are enough. -/
def reduceLoop (dm m : Nat) : Nat → Nat → Nat
  | 0, value => value
  | fuel + 1, value =>
    if dm ≤ bitlen value then reduceLoop dm m fuel (value ^^^ (m <<< (bitlen value - dm)))
    else value

/-- `reduce(value, modulo)` (40_polynomial_table.md R111): the remainder, truncated to 64 bits. -/
def reduce (value modulo : Nat) : Word :=
  BitVec.ofNat 64 (reduceLoop (bitlen modulo) modulo (bitlen value) value)

/-- `D = bitlen(P) = 64` (40_polynomial_table.md R112). -/
def polyDegree : Nat := 64

/-- `reduce(value, POLY)` with the bit-degree of `POLY` written in (log 15). -/
def reducePoly (c : Config) (value : Nat) : Word :=
  BitVec.ofNat 64 (reduceLoop polyDegree c.poly.toNat (bitlen value) value)

/-! ### Tables -/

/-- The table whose entry `i` is `f i`. -/
def Table.tabulate (f : Nat → Word) : Table := ⟨((List.range 256).map f).toArray, by simp⟩

/-- Entry `i` of a table. -/
def Table.entry (t : Table) (i : Byte) : Word := t[i.toNat]'(i.isLt)

/-! ### Outcomes -/

/-- The code of an outcome (60_exceptions.md R221), the value of STATUS bits 11:8. -/
def ErrCode.code : ErrCode → BitVec 4
  | .none => 0
  | .cfgAvg => 1
  | .cfgWindow => 2
  | .notConfigured => 3
  | .illegalCmd => 4
  | .queueOverflow => 5
  | .countOverflow => 6
  | .halted => 7

/-- Whether an outcome is a fatal fault (60_exceptions.md R221). -/
def ErrCode.fatal : ErrCode → Bool
  | .queueOverflow => true
  | .countOverflow => true
  | .none => false
  | .cfgAvg => false
  | .cfgWindow => false
  | .notConfigured => false
  | .illegalCmd => false
  | .halted => false

/-- `raise E`: the command ends with code `E`; "a fatal `raise` also sets the sticky fault bit"
(00_scope.md R14; 60_exceptions.md R220). Nothing else is written: there is no trap entry
(60_exceptions.md R231), and no return from one (R232). -/
def Engine.raise (e : Engine) (r : ErrCode) : Engine :=
  { e with err := r, fault := e.fault || r.fatal }

/-- How the body of a command ends: it ran to its end, or it raised an outcome with the state as
written up to the `raise` (60_exceptions.md R228). -/
inductive Run where
  | done (e : Engine)
  | raised (r : ErrCode) (e : Engine)
  deriving DecidableEq, Repr

/-- The engine after a command whose body ended so: `ERR <- 0` at the end (10_state.md R41), or the
outcome raised. -/
def Run.finish : Run → Engine
  | .done e => { e with err := .none }
  | .raised r e => e.raise r

/-- The guards that open every command's pseudocode, in the order of 60_exceptions.md R230:
`HALTED` while `FAULT = 1` (R223), then, for a command that needs it, `NOT_CONFIGURED` while
`CONFIGURED = 0` (R224). -/
def Engine.command (needsConfigured : Bool) (body : Engine → Run) (e : Engine) : Engine :=
  if e.fault then e.raise .halted
  else if needsConfigured && !e.configured then e.raise .notConfigured
  else (body e).finish

/-- The effect of a word that decodes to ILLEGAL: `HALTED` while `FAULT = 1` (60_exceptions.md R223),
else `ILLEGAL_CMD` (R225), and nothing else. -/
def Engine.illegalWord (e : Engine) : Engine :=
  if e.fault then e.raise .halted else e.raise .illegalCmd

/-! ### The instance an access names -/

/-- The engine of the current instance, if the device has it. -/
def State.engine? (s : State) : Option Engine := (s.instances[s.cur.toNat]?).map (·.engine)

/-- The state with the engine of the current instance replaced. -/
def State.setEngine (s : State) (e : Engine) : State :=
  { s with instances := s.instances.modify s.cur.toNat fun p => { p with engine := e } }

/-- Act on the engine of the current instance and on nothing else: "instances share no mutable
state" (20_memory.md R70). -/
def onEngine (f : Engine → Engine) (s : State) : Host.Outcome State Fault Refusal :=
  match s.engine? with
  | some e => .next (s.setEngine (f e))
  | none => .fault .noSuchInstance

end Sys2Proof.Machine
end

