-- ==== Sys2Proof/Machine/Operands.lean ====
section
/-! DEFINITION. What a command reads besides its own bytes: the active options under the names of
00_scope.md R17 (10_state.md R25), as exact naturals where rules compare them (00_scope.md R12). The
operands inside the command word are taken apart by the decoder (30_encoding.md R88, R89). -/

namespace Sys2Proof.Machine

/-- `W = ACT_WINDOW`. -/
def Engine.optW (e : Engine) : Nat := e.actWindow.toNat

/-- `MIN = ACT_MIN`. -/
def Engine.optMin (e : Engine) : Nat := e.actMin.toNat

/-- `AVG = ACT_AVG`. -/
def Engine.optAvg (e : Engine) : Nat := e.actAvg.toNat

/-- `MAX = ACT_MAX`. -/
def Engine.optMax (e : Engine) : Nat := e.actMax.toNat

/-- `ZIPEN = ACT_FLAGS[0]`. -/
def Engine.optZip (e : Engine) : Bool := e.actFlags.getLsbD 0

/-- `MASK = AVG - 1`. -/
def Engine.optMask (e : Engine) : Word := e.actAvg - 1

/-- `S0`, the first byte of a chunk that is not fast-skipped, counted from 1 (42_chunker.md R172). -/
def Engine.firstTested (c : Config) (e : Engine) : Nat :=
  if e.optW ≤ e.optMin then
    match c.skipCompare with
    | .pre => e.optMin - e.optW + 2
    | .post => e.optMin - e.optW + 1
  else 1

/-- Whether the output queue is at a finite capacity `QCAP` (42_chunker.md R168). -/
def Engine.queueFull (c : Config) (e : Engine) : Bool := c.qCap == some e.q.length

end Sys2Proof.Machine
end

