-- ==== Sys2Proof/Machine/Flags.lean ====
section
/-! DEFINITION. The conditions and status bits: the zip-signature match and `seen_zip_header`, the
only flag of BBM-RHE (10_state.md R33, R38), the fast-skip and boundary conditions of the byte step
(42_chunker.md R163, R166), and the STATUS word (10_state.md R40). -/

namespace Sys2Proof.Machine

/-- `ZIPSIG` (00_scope.md R17). -/
def zipSig : List Byte := [0x50, 0x4B, 0x03, 0x04]

/-- The match progress counter after a byte, step 2 of 42_chunker.md R160 (R162): advance on the next
expected byte, else 0; with the switch `ZIP_REMATCH`, a mismatching `0x50` restarts at 1. -/
def zipAdvance (c : Config) (enabled : Bool) (cnt : Fin 5) (b : Byte) : Fin 5 :=
  if h : enabled = true ∧ cnt.val < 4 then
    if zipSig[cnt.val]? = some b then ⟨cnt.val + 1, by omega⟩
    else if c.zipRematch ∧ zipSig[0]? = some b then 1
    else 0
  else cnt

/-- `seen_zip_header`: `ZIP_CNT == 4` (10_state.md R38). -/
def Engine.seenZip (e : Engine) : Bool := e.zipCnt == 4

/-- The fast-skip condition of step 3, on the state after step 2 (42_chunker.md R160, R163). -/
def Engine.fastSkips (c : Config) (e : Engine) : Bool :=
  let count := e.chunkSize.toNat + (match c.skipCompare with | .pre => 0 | .post => 1)
  decide (count + e.optW ≤ e.optMin) && !e.seenZip

/-- The hash test of step 5: `CHUNK_SIZE >= MIN and (HASH AND MASK) == MASK` (42_chunker.md R166). -/
def Engine.hashTest (e : Engine) : Bool :=
  decide (e.optMin ≤ e.chunkSize.toNat) && (e.hash &&& e.optMask) == e.optMask

/-- The cap of step 5: `CHUNK_SIZE >= MAX` (42_chunker.md R166). -/
def Engine.capReached (e : Engine) : Bool := decide (e.optMax ≤ e.chunkSize.toNat)

/-- The boundary test of step 5 (42_chunker.md R166). -/
def Engine.atBoundary (e : Engine) : Bool := e.seenZip || e.hashTest || e.capReached

/-- A one-bit field of a register at bit `k`. -/
def bitAt (k : Nat) (b : Bool) : Word := (BitVec.ofBool b).setWidth 64 <<< k

/-- STATUS (10_state.md R40): bit 0 `CONFIGURED`, 1 `OUT_VALID`, 2 `STATS_VALID`, 3 `QNONEMPTY`,
bits 11:8 `ERR`, bit 12 `FAULT`, the others 0. -/
def Engine.status (e : Engine) : Word :=
  bitAt 0 e.configured ||| bitAt 1 e.outValid ||| bitAt 2 e.statsValid ||| bitAt 3 (!e.q.isEmpty) |||
    (e.err.code.setWidth 64 <<< 8) ||| bitAt 12 e.fault

/-- QCOUNT, the length of `Q` (10_state.md R36). -/
def Engine.qCount (e : Engine) : Word := BitVec.ofNat 64 e.q.length

end Sys2Proof.Machine
end

