-- ==== Sys2Proof/Machine/Tables.lean ====
section
/-! DEFINITION. The Polynomial Table unit (40_polynomial_table.md). It has no command of its own;
CONFIGURE runs it. -/

namespace Sys2Proof.Machine

/-- `SHIFT[i] = reduce(i << (D - 1), P) XOR trunc64(i << (D - 1))` (40_polynomial_table.md R113). -/
def shiftEntry (c : Config) (i : Nat) : Word :=
  reducePoly c (i <<< (polyDegree - 1)) ^^^ BitVec.ofNat 64 (i <<< (polyDegree - 1))

/-- `DROP[i] = reduce(i << (8 * W), P)` for the window size `w` being configured
(40_polynomial_table.md R114). -/
def dropEntry (c : Config) (w i : Nat) : Word := reducePoly c (i <<< (8 * w))

/-- The shift table (40_polynomial_table.md R117). -/
def shiftTable (c : Config) : Table := Table.tabulate (shiftEntry c)

/-- The drop table for a window size (40_polynomial_table.md R117). -/
def dropTable (c : Config) (w : Nat) : Table := Table.tabulate (dropEntry c w)

/-- `BuildTables(Wn)` (40_polynomial_table.md R117). Both values of `TABLE_STRATEGY` give these
tables: under `CONST64` the window is 64 and the constant equals `BuildTables(64)` (R119). -/
def Engine.buildTables (c : Config) (w : Nat) (e : Engine) : Engine :=
  { e with shift := shiftTable c, drop := dropTable c w }

end Sys2Proof.Machine
end

