-- ==== Sys2Proof/Machine/RollingHash.lean ====
section
/-! DEFINITION. The rolling-hash datapath and its two diagnostic commands (41_rolling_hash.md). -/

namespace Sys2Proof.Machine

/-- A byte sequence read as one big-endian number: `sum over j of s_j << (8*(n-1-j))`
(41_rolling_hash.md R130). -/
def bigEndian (s : List Byte) : Nat := s.foldl (fun acc b => (acc <<< 8) + b.toNat) 0

/-- `RabinRem(s)` (41_rolling_hash.md R130). -/
def rabinRem (c : Config) (s : List Byte) : Word := reduce (bigEndian s) c.poly.toNat

/-- The window's bytes, oldest first: `[WIN[(CURSOR + k) mod W] for k in 0 .. W-1]`
(41_rolling_hash.md R140). -/
def Engine.windowBytes (e : Engine) : List Byte :=
  (List.range e.optW).map fun k => Memory.read e.win ((e.cursor.toNat + k) % e.optW)

/-- `Roll(b)` (41_rolling_hash.md R131). The evicted byte and the top byte, bits 62 to 55 of HASH
(40_polynomial_table.md R112; log 12), are taken from the state before the writes. -/
def Engine.roll (e : Engine) (b : Byte) : Engine :=
  let evicted := Memory.read e.win e.cursor.toNat
  let top : Byte := e.hash.extractLsb' 55 8
  { e with
    win := Memory.write e.win e.cursor.toNat b
    cursor := (e.cursor + 1) % e.actWindow
    hash := (e.hash <<< 8) ^^^ b.toWord ^^^ Table.entry e.drop evicted ^^^ Table.entry e.shift top }

/-- A sequence of `Roll` steps. -/
def Engine.rollAll (e : Engine) (bytes : List Byte) : Engine := bytes.foldl Engine.roll e

/-- The body of HASH_RESET: HASH and WIN cleared, CURSOR kept (41_rolling_hash.md R135). -/
def Engine.hashReset (e : Engine) : Engine := { e with hash := 0, win := [] }

/-- ROLL (41_rolling_hash.md R133). -/
def Engine.cmdRoll (b : Byte) (e : Engine) : Engine := e.command true fun e => .done (e.roll b)

/-- HASH_RESET (41_rolling_hash.md R135). -/
def Engine.cmdHrst (e : Engine) : Engine := e.command true fun e => .done e.hashReset

/-- `roll b` (41_rolling_hash.md R133). -/
def execRoll (b : Byte) (s : State) : Host.Outcome State Fault Refusal :=
  onEngine (Engine.cmdRoll b) s

/-- `hrst` (41_rolling_hash.md R135). -/
def execHrst (s : State) : Host.Outcome State Fault Refusal := onEngine Engine.cmdHrst s

end Sys2Proof.Machine
end

