-- ==== Sys2Proof/Machine/Chunker.lean ====
section
/-! DEFINITION. Configuration and the chunk-boundary detector (42_chunker.md): CONFIGURE, the
per-byte state machine, UPDATE_BYTE and UPDATE_PACKED. -/

namespace Sys2Proof.Machine

/-! ### Construction -/

/-- `CheckConfig()` (42_chunker.md R151), in its order: the outcome raised, or `none`. -/
def Engine.checkConfig (c : Config) (e : Engine) : Option ErrCode :=
  if e.cfgAvg = 0 ∨ e.cfgAvg &&& (e.cfgAvg - 1) ≠ 0 then some .cfgAvg
  else if e.cfgWindow = 0 ∨ c.winCap < e.cfgWindow.toNat then some .cfgWindow
  else if c.tableStrategy = .const64 ∧ e.cfgWindow ≠ 64 then some .cfgWindow
  else none

/-- `ACT_X <- CFG_X` for each option, with `ACT_FLAGS <- CFG_FLAGS AND 1` (10_state.md R25). -/
def Engine.latchOptions (e : Engine) : Engine :=
  { e with
    actWindow := e.cfgWindow
    actMin := e.cfgMin
    actAvg := e.cfgAvg
    actMax := e.cfgMax
    actFlags := e.cfgFlags &&& 1 }

/-- `EngineReset()` (42_chunker.md R153). -/
def Engine.engineReset (e : Engine) : Engine :=
  { e with
    hash := 0, win := [], cursor := 0
    chunkSize := 0, zipCnt := 0, cacc := []
    total := 0, sacc := [], q := []
    outValid := false, outSize := 0, outDigest := []
    statsValid := false, statsSize := 0, statsDigest := [] }

/-- CONFIGURE after its check has passed (42_chunker.md R152). -/
def Engine.construct (c : Config) (e : Engine) : Engine :=
  { ((e.latchOptions).buildTables c e.cfgWindow.toNat).engineReset with configured := true }

/-- CONFIGURE (42_chunker.md R152). -/
def Engine.cmdCfg (c : Config) (e : Engine) : Engine :=
  e.command false fun e =>
    match e.checkConfig c with
    | some r => .raised r e
    | none => .done (e.construct c)

/-- `cfg` (42_chunker.md R152). -/
def execCfg (s : State) : Host.Outcome State Fault Refusal :=
  onEngine (Engine.cmdCfg Config.build) s

/-! ### The per-byte state machine -/

/-- `ChunkLocalReset()`; CURSOR is not in its list (42_chunker.md R169). -/
def Engine.chunkLocalReset (e : Engine) : Engine :=
  { e with hash := 0, chunkSize := 0, zipCnt := 0, win := [], cacc := [] }

/-- The record of the current chunk (42_chunker.md R168). -/
def Engine.currentChunk (c : Config) (e : Engine) : Chunk :=
  ⟨e.chunkSize, (c.chunkDigest e.cacc).toList⟩

/-- `Cut()` once the queue has room: enqueue the chunk, then `ChunkLocalReset()`
(42_chunker.md R168). -/
def Engine.pushChunk (c : Config) (e : Engine) : Engine :=
  ({ e with q := e.q ++ [e.currentChunk c] }).chunkLocalReset

/-- `Cut()` (42_chunker.md R168). -/
def Engine.cut (c : Config) (e : Engine) : Run :=
  if e.queueFull c then .raised .queueOverflow e else .done (e.pushChunk c)

/-- Step 1: the byte goes to both digest accumulators and is counted in TOTAL (42_chunker.md R161,
R170). -/
def Engine.account (e : Engine) (b : Byte) : Engine :=
  { e with sacc := e.sacc ++ [b], total := e.total + 1, cacc := e.cacc ++ [b] }

/-- Step 2: the zip-signature match (42_chunker.md R162). -/
def Engine.zipStep (c : Config) (e : Engine) (b : Byte) : Engine :=
  { e with zipCnt := zipAdvance c e.optZip e.zipCnt b }

/-- "Increment the current chunk's byte counter" (42_chunker.md R163, R165). -/
def Engine.countByte (e : Engine) : Engine := { e with chunkSize := e.chunkSize + 1 }

/-- Steps 4 and 5 and the cut: the byte is rolled, then counted, then tested (42_chunker.md R160,
R164 to R168). -/
def Engine.rollAndTest (c : Config) (e : Engine) (b : Byte) : Run :=
  let e := (e.roll b).countByte
  if e.atBoundary then e.cut c else .done e

/-- `ByteStep(b)` (42_chunker.md R160): the bound of step 0 (10_state.md R28), steps 1 and 2, then
either the fast skip of step 3 or steps 4 and 5. -/
def Engine.byteStep (c : Config) (e : Engine) (b : Byte) : Run :=
  if e.total.toNat = 2 ^ 64 - 1 then .raised .countOverflow e
  else
    let e := (e.account b).zipStep c b
    if e.fastSkips c then .done e.countByte else e.rollAndTest c b

/-- Byte steps in order; "a fatal fault ends the command at byte k" (42_chunker.md R156). -/
def Engine.feedBytes (c : Config) : List Byte → Engine → Run
  | [], e => .done e
  | b :: rest, e =>
    match e.byteStep c b with
    | .done e => Engine.feedBytes c rest e
    | .raised r e => .raised r e

/-! ### The update commands -/

/-- UPDATE_BYTE (42_chunker.md R155). -/
def Engine.cmdUpd (c : Config) (b : Byte) (e : Engine) : Engine :=
  e.command true fun e => e.byteStep c b

/-- UPDATE_PACKED (42_chunker.md R156). -/
def Engine.cmdUpdp (c : Config) (bytes : List Byte) (e : Engine) : Engine :=
  e.command true (Engine.feedBytes c bytes)

/-- `upd b` (42_chunker.md R155). -/
def execUpd (b : Byte) (s : State) : Host.Outcome State Fault Refusal :=
  onEngine (Engine.cmdUpd Config.build b) s

/-- `updp b0, ..., b(n-1)` (42_chunker.md R156). -/
def execUpdp (bytes : List Byte) (s : State) : Host.Outcome State Fault Refusal :=
  onEngine (Engine.cmdUpdp Config.build bytes) s

end Sys2Proof.Machine
end

