-- ==== Sys2Proof/Machine/Nop.lean ====
section
/-! DEFINITION. The hint space (30_encoding.md R95). -/

namespace Sys2Proof.Machine

/-- NOP: it changes nothing but `ERR <- 0`, is legal while `CONFIGURED = 0`, and is `HALTED` while
`FAULT = 1` (30_encoding.md R95). -/
def Engine.cmdNop (e : Engine) : Engine := e.command false .done

/-- `nop`, whatever `OPA` and `DATA` hold. -/
def execNop (_opa : Byte) (_data : BitVec 48) (s : State) : Host.Outcome State Fault Refusal :=
  onEngine Engine.cmdNop s

end Sys2Proof.Machine
end

