-- ==== Sys2Proof/Machine/Output.lean ====
section
/-! DEFINITION. Finalize and the output queue (43_output.md): FINALIZE and POP. -/

namespace Sys2Proof.Machine

/-- FINALIZE once the queue has room for the final chunk (43_output.md R190): the Stats are those of
the state before, `Cut()` runs if the chunk has bytes (its own test of the queue is the one made
before), then TOTAL, SACC and the chunk-local state are reset. -/
def Engine.closeStream (c : Config) (e : Engine) : Engine :=
  let e1 := { e with sacc := [] }
  let e2 := if e.chunkSize ≠ 0 then e1.pushChunk c else e1
  { ({ e2 with total := 0 }).chunkLocalReset with
    statsSize := e.total
    statsDigest := Memory.ofBytes (c.streamDigest e.sacc).toList
    statsValid := true }

/-- FINALIZE (43_output.md R190). -/
def Engine.cmdFin (c : Config) (e : Engine) : Engine :=
  e.command true fun e =>
    if e.chunkSize ≠ 0 ∧ e.queueFull c then .raised .queueOverflow e else .done (e.closeStream c)

/-- The body of POP (43_output.md R195): an empty queue clears OUT, else the oldest record moves
there, its first `DL_C` digest bytes at addresses 0 to `DL_C - 1` and 0 above. -/
def Engine.dequeue (c : Config) (e : Engine) : Engine :=
  match e.q with
  | [] => { e with outValid := false, outSize := 0, outDigest := [] }
  | r :: rest =>
    { e with
      q := rest
      outValid := true
      outSize := r.size
      outDigest := Memory.ofBytes (r.digest.take c.dlC) }

/-- POP (43_output.md R195). -/
def Engine.cmdPop (c : Config) (e : Engine) : Engine := e.command true fun e => .done (e.dequeue c)

/-- `fin` (43_output.md R190). -/
def execFin (s : State) : Host.Outcome State Fault Refusal :=
  onEngine (Engine.cmdFin Config.build) s

/-- `pop` (43_output.md R195). -/
def execPop (s : State) : Host.Outcome State Fault Refusal :=
  onEngine (Engine.cmdPop Config.build) s

end Sys2Proof.Machine
end

