-- ==== Sys2Proof/Machine/Dispatch.lean ====
section
/-! DEFINITION. One arm per command of spec/opcode_table.json (30_encoding.md R91). -/

namespace Sys2Proof.Machine

/-- What a decoded command does to the instance whose CMD register was written. -/
def exec (i : Instr) (s : State) : Host.Outcome State Fault Refusal :=
  match i with
  | .nop opa data => Sys2Proof.Machine.execNop opa data s
  | .cfg => Sys2Proof.Machine.execCfg s
  | .upd b => Sys2Proof.Machine.execUpd b s
  | .updp bytes => Sys2Proof.Machine.execUpdp bytes s
  | .fin => Sys2Proof.Machine.execFin s
  | .pop => Sys2Proof.Machine.execPop s
  | .roll b => Sys2Proof.Machine.execRoll b s
  | .hrst => Sys2Proof.Machine.execHrst s

end Sys2Proof.Machine
end

