-- ==== Sys2Proof/Machine/Registers.lean ====
section
/-! DEFINITION. The register block of one instance (10_state.md R45): offsets, permitted accesses
(20_memory.md R63), what a host read returns and what a host write outside CMD stores
(43_output.md R202). -/

namespace Sys2Proof.Machine

/-- The 64-bit registers of the map (10_state.md R45), the table entries among them. -/
inductive Register where
  | cmd | status
  | cfgWindow | cfgMin | cfgAvg | cfgMax | cfgFlags
  | hash | chunkSize | total | zipCnt | cursor | qCount | outSize | statsSize
  | actWindow | actMin | actAvg | actMax | actFlags
  | shift (i : Byte) | drop (i : Byte)
  deriving DecidableEq, Repr

/-- `off(REG)` (10_state.md R45; 30_encoding.md R98). -/
def Register.offset : Register → Nat
  | .cmd => 0x000
  | .status => 0x008
  | .cfgWindow => 0x010
  | .cfgMin => 0x018
  | .cfgAvg => 0x020
  | .cfgMax => 0x028
  | .cfgFlags => 0x030
  | .hash => 0x038
  | .chunkSize => 0x040
  | .total => 0x048
  | .zipCnt => 0x050
  | .cursor => 0x058
  | .qCount => 0x060
  | .outSize => 0x068
  | .statsSize => 0x070
  | .actWindow => 0x090
  | .actMin => 0x098
  | .actAvg => 0x0A0
  | .actMax => 0x0A8
  | .actFlags => 0x0B0
  | .shift i => 0x800 + 8 * i.toNat
  | .drop i => 0x1000 + 8 * i.toNat

/-- The register below 0x100 at an offset; `none` for a reserved offset (10_state.md R45). -/
def Register.named : Nat → Option Register
  | 0x000 => some .cmd
  | 0x008 => some .status
  | 0x010 => some .cfgWindow
  | 0x018 => some .cfgMin
  | 0x020 => some .cfgAvg
  | 0x028 => some .cfgMax
  | 0x030 => some .cfgFlags
  | 0x038 => some .hash
  | 0x040 => some .chunkSize
  | 0x048 => some .total
  | 0x050 => some .zipCnt
  | 0x058 => some .cursor
  | 0x060 => some .qCount
  | 0x068 => some .outSize
  | 0x070 => some .statsSize
  | 0x090 => some .actWindow
  | 0x098 => some .actMin
  | 0x0A0 => some .actAvg
  | 0x0A8 => some .actMax
  | 0x0B0 => some .actFlags
  | _ => none

/-- The 64-bit register at an offset of the block, if one stands there (10_state.md R45). -/
def Register.ofOffset (off : Nat) : Option Register :=
  if off < 0x100 then Register.named off
  else if 0x800 ≤ off ∧ off < 0x1000 ∧ off % 8 = 0 then
    some (.shift (BitVec.ofNat 8 ((off - 0x800) / 8)))
  else if 0x1000 ≤ off ∧ off < 0x1800 ∧ off % 8 = 0 then
    some (.drop (BitVec.ofNat 8 ((off - 0x1000) / 8)))
  else none

/-- The three kinds of offset range of 20_memory.md R63. -/
inductive Region where
  | registers | bytes | reserved
  deriving DecidableEq, Repr

/-- The range an offset of the block lies in (20_memory.md R63). -/
def regionOf (off : Nat) : Region :=
  if off < 0x100 then .registers
  else if off < 0x200 then .bytes
  else if off < 0x800 then .reserved
  else if off < 0x1800 then .registers
  else if off < 0x2000 then .reserved
  else .bytes

/-- Reads permitted: 8 bytes 8-aligned anywhere, 1 byte in a byte window (20_memory.md R63). -/
def readPermitted (off size : Nat) : Bool :=
  (size == 8 && off % 8 == 0) || (size == 1 && regionOf off == .bytes)

/-- Writes permitted: 8 bytes 8-aligned (20_memory.md R63). -/
def writePermitted (off size : Nat) : Bool := size == 8 && off % 8 == 0

/-- The byte at an offset of a byte window: OUT_DIGEST, STATS_DIGEST, or WIN, whose bytes from
`WIN_CAP` on read 0 (10_state.md R37, R39, R45). -/
def Engine.windowByte (c : Config) (e : Engine) (off : Nat) : Byte :=
  if 0x100 ≤ off ∧ off < 0x180 then Memory.read e.outDigest (off - 0x100)
  else if 0x180 ≤ off ∧ off < 0x200 then Memory.read e.statsDigest (off - 0x180)
  else if 0x2000 ≤ off ∧ off - 0x2000 < c.winCap then Memory.read e.win (off - 0x2000)
  else 0

/-- The value a read of a register returns (10_state.md R45): CMD reads 0 (30_encoding.md R85), the
table entries read 0 while `CONFIGURED = 0` (40_polynomial_table.md R124; log 17). -/
def Engine.readRegister (e : Engine) : Register → Word
  | .cmd => 0
  | .status => e.status
  | .cfgWindow => e.cfgWindow
  | .cfgMin => e.cfgMin
  | .cfgAvg => e.cfgAvg
  | .cfgMax => e.cfgMax
  | .cfgFlags => e.cfgFlags
  | .hash => e.hash
  | .chunkSize => e.chunkSize
  | .total => e.total
  | .zipCnt => BitVec.ofNat 64 e.zipCnt.val
  | .cursor => e.cursor
  | .qCount => e.qCount
  | .outSize => e.outSize
  | .statsSize => e.statsSize
  | .actWindow => e.actWindow
  | .actMin => e.actMin
  | .actAvg => e.actAvg
  | .actMax => e.actMax
  | .actFlags => e.actFlags
  | .shift i => if e.configured then Table.entry e.shift i else 0
  | .drop i => if e.configured then Table.entry e.drop i else 0

/-- An 8-byte read at an aligned offset: the register there, eight bytes of a window little-endian
(20_memory.md R62(b)), or 0 at a reserved offset (10_state.md R45). -/
def Engine.read64 (c : Config) (e : Engine) (off : Nat) : Word :=
  if regionOf off = .bytes then littleEndian8 (e.windowByte c) off
  else match Register.ofOffset off with
    | some r => e.readRegister r
    | none => 0

/-- `HostRead(off, n)`: the value, or `none` for an access R63 does not permit (20_memory.md R63;
43_output.md R202). A 1-byte value is widened with zeros. -/
def Engine.hostRead (c : Config) (e : Engine) (off size : Nat) : Option Word :=
  if readPermitted off size then
    some (if size = 1 then (e.windowByte c off).toWord else e.read64 c off)
  else none

/-- What a write of a register other than CMD stores: a CFG register takes the value, CFG_FLAGS its
bit 0 only, and every other register ignores it (20_memory.md R66; 43_output.md R202). -/
def Engine.writeRegister (e : Engine) (v : Word) : Register → Engine
  | .cfgWindow => { e with cfgWindow := v }
  | .cfgMin => { e with cfgMin := v }
  | .cfgAvg => { e with cfgAvg := v }
  | .cfgMax => { e with cfgMax := v }
  | .cfgFlags => { e with cfgFlags := v &&& 1 }
  | .cmd | .status | .hash | .chunkSize | .total | .zipCnt | .cursor | .qCount | .outSize
  | .statsSize | .actWindow | .actMin | .actAvg | .actMax | .actFlags | .shift _ | .drop _ => e

/-- A permitted write at an offset other than CMD's (20_memory.md R66). -/
def Engine.hostWrite (off : Nat) (v : Word) (e : Engine) : Engine :=
  match Register.ofOffset off with
  | some r => e.writeRegister v r
  | none => e

end Sys2Proof.Machine
end

