-- ==== Sys2Proof/Machine/Bus.lean ====
section
/-! DEFINITION. The host's accesses: where an address of the device window leads (20_memory.md R60),
performing one access, and power-on reset. -/

namespace Sys2Proof.Machine

/-! ### The device window -/

/-- The address of an offset of an instance: `DEV_BASE + i*0x4000 + off` (20_memory.md R60). -/
def hostAddress (c : Config) (inst : BitVec 4) (off : BitVec 14) : Nat :=
  c.devBase + inst.toNat * 0x4000 + off.toNat

/-- The instance and offset an address of the host's bus names, or `none` outside the window of
`N_INST * 0x4000` bytes at `DEV_BASE` (20_memory.md R60). -/
def locate (c : Config) (addr : Nat) : Option (BitVec 4 × BitVec 14) :=
  if c.devBase ≤ addr ∧ addr < c.devBase + c.nInst * 0x4000 then
    some (BitVec.ofNat 4 ((addr - c.devBase) / 0x4000), BitVec.ofNat 14 ((addr - c.devBase) % 0x4000))
  else none

/-- Access `size` bytes at an address of the bus, if it lies in the window. -/
def Access.atAddress (c : Config) (agent addr size : Nat) (kind : AccessKind) : Option Access :=
  (locate c addr).map fun x => ⟨agent, x.1, x.2, size, kind⟩

/-! ### Performing an access -/

/-- An ILLEGAL word written to CMD of the current instance: on a faulted engine every word, "legal or
not", is `HALTED` (60_exceptions.md R223, R230); else a word of the custom space is refused
(30_encoding.md R94; log 11) and any other reports `ILLEGAL_CMD` (60_exceptions.md R225). -/
def illegalWrite (w : Word) (s : State) : Host.Outcome State Fault Refusal :=
  match s.engine? with
  | some e =>
    if isCustomWord w && !e.fault then .refused .customCommand
    else .next (s.setEngine e.illegalWord)
  | none => .fault .noSuchInstance

/-- A word written to CMD of the current instance: it is decoded and the command runs to completion
(30_encoding.md R85). -/
def runWord (w : Word) (s : State) : Host.Outcome State Fault Refusal :=
  match decode w with
  | some i => exec i s
  | none => illegalWrite w s

/-- A permitted write to the current instance (43_output.md R202). -/
def performWrite (off : Nat) (v : Word) (s : State) : Host.Outcome State Fault Refusal :=
  if Register.ofOffset off = some .cmd then runWord v s else onEngine (Engine.hostWrite off v) s

/-- One host access: it must name an instance of the device (20_memory.md R60), come from the
instance's one owner (R71) and be permitted (R63). A read returns a value and changes nothing of the
device (R66); a write is performed whole (R65). -/
def perform (a : Access) (s : State) : Host.Outcome State Fault Refusal :=
  match s.instances[a.inst.toNat]? with
  | none => .fault .noSuchInstance
  | some p =>
    if a.agent ≠ p.owner then .refused .secondAgent
    else match a.kind with
      | .read =>
        match p.engine.hostRead Config.build a.off.toNat a.size with
        | some v => .next { s with cur := a.inst, readData := some v }
        | none => .refused .busError
      | .write v =>
        if writePermitted a.off.toNat a.size then
          performWrite a.off.toNat v { s with cur := a.inst }
        else .refused .busError

/-- Power-on reset sets every state element of every instance to its reset value
(70_reset_and_hazards.md R250; log 18). -/
def State.powerOn (s : State) : State :=
  { s with instances := s.instances.map fun p => { p with engine := Engine.reset } }

/-- One event from outside. -/
def handle (ev : HostEvent) (s : State) : Host.Outcome State Fault Refusal :=
  match ev with
  | .access a => perform a s
  | .powerOnReset => .next s.powerOn

/-- The host's next event, in program order; with none pending the device "holds all state" and takes
no step of its own (00_scope.md R19; 60_exceptions.md R240; log 5). -/
def nextEvent (s : State) : Host.Outcome State Fault Refusal :=
  match s.pending with
  | [] => .next s
  | ev :: rest => handle ev { s with pending := rest }

/-- The write of a word to CMD of the current instance by its owner. -/
def State.cmdWrite (s : State) (w : Word) : HostEvent :=
  .access ⟨((s.instances[s.cur.toNat]?).map (·.owner)).getD 0, s.cur, 0, 8, .write w⟩

end Sys2Proof.Machine
end

