-- ==== Sys2Proof/Machine/Step.lean ====
section
/-! DEFINITION. One step of the machine is one host access (00_scope.md R19), and how the host hands
the machine a command. -/

namespace Sys2Proof.Machine

/-- One step: the host's next access, performed whole. -/
def step (s : State) : Host.Outcome State Fault Refusal := nextEvent s

/-- `s` with the write of a command word to CMD of the current instance as the host's next access.
BBM-RHE fetches nothing (10_state.md R20): a program is the host's sequence of CMD writes, loaded from
outside the machine (log 5). -/
def State.withFetchWord (s : State) (nbits w : Nat) : State :=
  { s with pending := s.cmdWrite (BitVec.ofNat 64 (w % 2 ^ nbits)) :: s.pending }

end Sys2Proof.Machine
end

