-- ==== Sys2Proof/Machine/Commands.lean ====
section
/-! DEFINITION. The commands as functions of one engine, for any build: what `exec` does to the
current instance, written once with the parameters of 00_scope.md R8 as an argument. -/

namespace Sys2Proof.Machine

/-- What a command does to the engine whose CMD register it is written to. -/
def Engine.run (c : Config) (e : Engine) (i : Instr) : Engine :=
  match i with
  | .nop _ _ => e.cmdNop
  | .cfg => e.cmdCfg c
  | .upd b => e.cmdUpd c b
  | .updp bytes => e.cmdUpdp c bytes
  | .fin => e.cmdFin c
  | .pop => e.cmdPop c
  | .roll b => e.cmdRoll b
  | .hrst => e.cmdHrst

/-- What the hardware does with a 64-bit word written to CMD, legal or not (30_encoding.md R85, R97); for
a word of the custom space too "the hardware reports `ILLEGAL_CMD`" (93_implementation_defined.md U14),
though a model's step refuses it (log 11). -/
def Engine.runWord (c : Config) (e : Engine) (w : Word) : Engine :=
  match decode w with
  | some i => e.run c i
  | none => e.illegalWord

/-- A sequence of commands, each complete before the next (20_memory.md R70). -/
def Engine.runAll (c : Config) (e : Engine) (is : List Instr) : Engine := is.foldl (Engine.run c) e

end Sys2Proof.Machine
end

