-- ==== Sys2Proof/Machine/HostProgram.lean ====
section
/-! DEFINITION. The host's side of 30_encoding.md section 5: its statements as accesses (R98) and the
pseudo-instructions as lists of them (R99). Nothing here is state of the engine; the text of the
assembly syntax is the host's (log 21). -/

namespace Sys2Proof.Machine

/-- The agent and the instance a host program works for. -/
structure HostPort where
  agent : Nat
  inst : BitVec 4
  deriving DecidableEq, Repr

/-- `<REG>`: "a name of 10_state.md rule R45, or `SHIFT[i]`, `DROP[i]`, `WIN[j]`" (30_encoding.md R98).
`Register` holds the names of the 64-bit registers and of the table entries; the byte windows of R45
have names of their own. -/
inductive RegName where
  | register (r : Register)
  | outDigest
  | statsDigest
  | win (j : Fin 8192)
  deriving DecidableEq, Repr

/-- `off(REG)`, the entry's offset (30_encoding.md R98; 10_state.md R45). -/
def RegName.offset : RegName → Nat
  | .register r => r.offset
  | .outDigest => 0x100
  | .statsDigest => 0x180
  | .win j => 0x2000 + j.val

/-- `wr <REG>, <imm64>` is `HostWrite(off(REG), 8, imm64)` (30_encoding.md R98). -/
def HostPort.wr (h : HostPort) (r : RegName) (v : Word) : HostEvent :=
  .access ⟨h.agent, h.inst, BitVec.ofNat 14 r.offset, 8, .write v⟩

/-- `rd <REG>` is `HostRead(off(REG), 8)` (30_encoding.md R98); of `WIN[j]` it is permitted where `j` is
a multiple of 8 (20_memory.md R63). -/
def HostPort.rd (h : HostPort) (r : RegName) : HostEvent :=
  .access ⟨h.agent, h.inst, BitVec.ofNat 14 r.offset, 8, .read⟩

/-- `rdb <off>` is `HostRead(off, 1)` (30_encoding.md R98). -/
def HostPort.rdb (h : HostPort) (off : BitVec 14) : HostEvent :=
  .access ⟨h.agent, h.inst, off, 1, .read⟩

/-- An engine mnemonic assembles to `HostWrite(0x000, 8, word)` (30_encoding.md R98). -/
def HostPort.issue (h : HostPort) (i : Instr) : HostEvent := h.wr (.register .cmd) (encode i)

/-- `config W, MIN, AVG, MAX, Z` (30_encoding.md R99). -/
def HostPort.config (h : HostPort) (w mn av mx z : Word) : List HostEvent :=
  [h.wr (.register .cfgWindow) w, h.wr (.register .cfgMin) mn, h.wr (.register .cfgAvg) av,
    h.wr (.register .cfgMax) mx, h.wr (.register .cfgFlags) z, h.issue .cfg]

/-- A byte sequence in pieces of 6, the last one shorter: the `j`-th holds bytes `6j` to
`min(6j+5, m-1)` (30_encoding.md R99). -/
def inSixes : List Byte → List (List Byte)
  | [] => []
  | b0 :: b1 :: b2 :: b3 :: b4 :: b5 :: rest => [b0, b1, b2, b3, b4, b5] :: inSixes rest
  | short => [short]

/-- `feed b0, ..., b(m-1)` as commands (30_encoding.md R99). -/
def feedCommands (bytes : List Byte) : List Instr := (inSixes bytes).map .updp

/-- `feed b0, ..., b(m-1)` (30_encoding.md R99). -/
def HostPort.feed (h : HostPort) (bytes : List Byte) : List HostEvent :=
  (feedCommands bytes).map h.issue

/-- `feedrep k, b0, ..., b(p-1)` (30_encoding.md R99). -/
def HostPort.feedrep (h : HostPort) (k : Nat) (bytes : List Byte) : List HostEvent :=
  h.feed (List.replicate k bytes).flatten

/-- `rollseq b0, ..., b(m-1)` as commands (30_encoding.md R99). -/
def rollseqCommands (bytes : List Byte) : List Instr := .hrst :: bytes.map .roll

/-- `rollseq b0, ..., b(m-1)` (30_encoding.md R99). -/
def HostPort.rollseq (h : HostPort) (bytes : List Byte) : List HostEvent :=
  (rollseqCommands bytes).map h.issue

/-- One round of `drain`: `pop`, then `rd STATUS` (30_encoding.md R99). -/
def HostPort.drainRound (h : HostPort) : List HostEvent := [h.issue .pop, h.rd (.register .status)]

/-- The loop of `drain` on one engine, at most `fuel` rounds: while STATUS bit 1 is 1 after the
`pop`, consume OUT_SIZE and OUT_DIGEST and go on (30_encoding.md R99). -/
def Engine.drain (c : Config) : Nat → Engine → List (Word × Memory) × Engine
  | 0, e => ([], e)
  | fuel + 1, e =>
    let e := e.cmdPop c
    if e.status.getLsbD 1 then
      let (rest, last) := Engine.drain c fuel e
      ((e.outSize, e.outDigest) :: rest, last)
    else ([], e)

end Sys2Proof.Machine
end

