-- ==== Sys2Proof/Safety.lean ====
section
/-! DEFINITION. What counts as a good run, and the invariants of an engine (10_state.md R44), in the
terms the statements use. -/

namespace Sys2Proof.Machine

/-- "A run that ends with `FAULT = 1` is a faulted run and is never a good final state"
(43_output.md R203): the host has nothing left to do and no instance is faulted. -/
def State.goodFinal (s : State) : Prop :=
  s.pending = [] ∧ ∀ p ∈ s.instances, p.engine.fault = false

/-- The latched options are ones CONFIGURE accepts (42_chunker.md R151), with `ACT_FLAGS` one bit
(10_state.md R25). -/
structure Engine.OptionsLegal (c : Config) (e : Engine) : Prop where
  window : 1 ≤ e.optW ∧ e.optW ≤ c.winCap
  const64 : c.tableStrategy = .const64 → e.optW = 64
  average : ∃ k, e.optAvg = 2 ^ k
  flags : e.actFlags = 0 ∨ e.actFlags = 1

/-- What holds of a configured engine, faulted or not (10_state.md R44, items 1 to 5, 7 and 8;
40_polynomial_table.md R118; 42_chunker.md R173). The bounds on `ZIP_CNT` and on an unfinished chunk
are those of an engine that is not faulted: a cut that the queue refuses leaves them behind
(60_exceptions.md R228). -/
structure Engine.Live (c : Config) (e : Engine) : Prop where
  options : e.OptionsLegal c
  tables : e.shift = shiftTable c ∧ e.drop = dropTable c e.optW
  cursor : e.cursor.toNat < e.optW
  hash : e.hash.toNat < 2 ^ 63
  chunkBytes : e.cacc.length = e.chunkSize.toNat
  streamBytes : e.sacc.length = e.total.toNat
  counters : e.chunkSize.toNat ≤ e.total.toNat
  zipCnt : e.fault = false → e.zipCnt.val ≤ 3
  zipOff : e.optZip = false → e.zipCnt = 0
  unfinished : e.fault = false → e.chunkSize.toNat < max (e.firstTested c) e.optMax
  records : ∀ r ∈ e.q, 1 ≤ r.size.toNat ∧ r.digest.length = c.dlC
  queue : ∀ n, c.qCap = some n → e.q.length ≤ n
  window : ∀ x ∈ e.win, x.1 < e.optW

/-- The invariant of an engine of a given build. An engine that is not configured is as after
power-on but for the staged options and `ERR` (10_state.md R22, R43, R46). -/
structure Engine.Inv (c : Config) (e : Engine) : Prop where
  cfgFlags : e.cfgFlags = 0 ∨ e.cfgFlags = 1
  memories : Memory.wf e.win = true ∧ Memory.wf e.outDigest = true ∧ Memory.wf e.statsDigest = true
  faultCode : e.fault = true ↔ e.err = .queueOverflow ∨ e.err = .countOverflow ∨ e.err = .halted
  unconfigured : e.configured = false →
    e = { Engine.reset with
      cfgWindow := e.cfgWindow, cfgMin := e.cfgMin, cfgAvg := e.cfgAvg, cfgMax := e.cfgMax
      cfgFlags := e.cfgFlags, err := e.err }
  configured : e.configured = true → e.Live c

/-- Item 6 of 10_state.md R44: HASH is the Rabin remainder of the window read oldest first
(41_rolling_hash.md R140). -/
def Engine.HashIsWindowRem (c : Config) (e : Engine) : Prop := e.hash = rabinRem c e.windowBytes

/-- Every instance of the machine meets the invariant. -/
def State.Inv (s : State) : Prop := ∀ p ∈ s.instances, p.engine.Inv Config.build

/-- In every instance HASH is the Rabin remainder of the window. -/
def State.HashInv (s : State) : Prop := ∀ p ∈ s.instances, p.engine.HashIsWindowRem Config.build

end Sys2Proof.Machine
end

