-- ==== Sys2Proof/Certificates/Slice0/Obligations.lean ====
section
/-! DEFINITION. The statements for the provers. Each formalises the numbered rule its docstring names.
`s.engine? = some e` says that the instance the command is written to exists and that `e` is its
engine; statements with a `c : Config` hold for every legal build, those about `exec` and `step` for the
one build they run (notes/assumptions 3 and 4). `Engine.runWord` is what the hardware does with any word,
one of the custom space too (93_implementation_defined.md U14); a step refuses such a word on an engine
that is not faulted (notes/assumptions 11). -/

open Sys2Proof Sys2Proof.Machine

namespace Sys2Proof.Spec

/-- The zip-match counter after a byte, written out byte by byte from 42_chunker.md R162 and the
switch `ZIP_REMATCH` of R160. -/
def nextMatch (rematch zipen : Bool) (cnt : Nat) (b : Byte) : Nat :=
  if zipen = false ∨ cnt = 4 then cnt
  else if (cnt = 0 ∧ b = 0x50) ∨ (cnt = 1 ∧ b = 0x4B) ∨ (cnt = 2 ∧ b = 0x03) ∨ (cnt = 3 ∧ b = 0x04)
    then cnt + 1
  else if rematch ∧ b = 0x50 then 1
  else 0

/-- The match counter after the byte `b` is fed to `e`. -/
def matchAfter (c : Config) (e : Engine) (b : Byte) : Nat :=
  nextMatch c.zipRematch e.optZip e.zipCnt.val b

/-- The fast-skip test of 42_chunker.md R160 step 3, on exact naturals. -/
def skips (c : Config) (e : Engine) (b : Byte) : Prop :=
  e.chunkSize.toNat + (if c.skipCompare = .post then 1 else 0) + e.optW ≤ e.optMin ∧
    matchAfter c e b ≠ 4

/-- The boundary test of 42_chunker.md R166 at the byte `b`, on exact naturals: the count includes the
byte and the hash is the one the byte gives. -/
def isBoundary (c : Config) (e : Engine) (b : Byte) : Prop :=
  matchAfter c e b = 4 ∨
    (e.optMin ≤ e.chunkSize.toNat + 1 ∧
      (e.roll b).hash.toNat &&& (e.optAvg - 1) = e.optAvg - 1) ∨
    e.optMax ≤ e.chunkSize.toNat + 1

/-- The engine can run every command: configured and not faulted. -/
def ready (e : Engine) : Prop := e.configured = true ∧ e.fault = false

/-- The staged options are ones CONFIGURE accepts (42_chunker.md R151). -/
def acceptable (c : Config) (e : Engine) : Prop :=
  (∃ k, e.cfgAvg.toNat = 2 ^ k) ∧ 1 ≤ e.cfgWindow.toNat ∧ e.cfgWindow.toNat ≤ c.winCap ∧
    (c.tableStrategy = .const64 → e.cfgWindow.toNat = 64)

/-- The step-1 effects of a byte on the accumulators and TOTAL, the match counter of step 2 and the
counted chunk byte: what every byte that COUNT_OVERFLOW does not stop does (42_chunker.md R161, R162,
R163, R165). -/
def counted (c : Config) (e : Engine) (b : Byte) : Engine :=
  { e with
    sacc := e.sacc ++ [b]
    cacc := e.cacc ++ [b]
    total := BitVec.ofNat 64 (e.total.toNat + 1)
    chunkSize := BitVec.ofNat 64 (e.chunkSize.toNat + 1)
    zipCnt := Fin.ofNat 5 (matchAfter c e b) }

/-- `counted`, with the byte rolled as well (42_chunker.md R164). -/
def countedAndRolled (c : Config) (e : Engine) (b : Byte) : Engine :=
  { counted c e b with
    hash := (e.roll b).hash
    win := (e.roll b).win
    cursor := (e.roll b).cursor }

/-- The bytes a command feeds to the stream. -/
def fedBytes : Instr → List Byte
  | .upd b => [b]
  | .updp bytes => bytes
  | .nop _ _ | .cfg | .fin | .pop | .roll _ | .hrst => []

/-- The last `n` elements of a list. -/
def lastN (n : Nat) (l : List Byte) : List Byte := l.drop (l.length - n)

/-- The one legal word of an opcode without operands is the command, and every other word with that
opcode is `ILLEGAL_CMD`, on an engine that is not faulted (30_encoding.md R91, R92). -/
def onlyWord (opc : Nat) (i : Instr) (s : State) (e : Engine) : Prop :=
  decode (BitVec.ofNat 64 opc) = some i ∧
    (e.fault = false → ∀ w : Word, w.toNat % 256 = opc → w.toNat ≠ opc →
      runWord w s = .next (s.setEngine { e with err := .illegalCmd }))

/-- The tables of an engine are those of its build and window (40_polynomial_table.md R118). -/
def tablesBuilt (c : Config) (e : Engine) : Prop :=
  e.shift = shiftTable c ∧ e.drop = dropTable c e.optW

/-- A cleared rolling hash (41_rolling_hash.md R140), with the cursor in the window. -/
def cleared (e : Engine) : Prop :=
  e.hash = 0 ∧ (∀ j, Memory.read e.win j = 0) ∧ Memory.wf e.win = true ∧ e.cursor.toNat < e.optW

end Sys2Proof.Spec

open Sys2Proof.Spec

/-! ### Reset and encoding -/

/-- 10_state.md R46: the value of every state element after power-on reset. -/
def Obligations.ResetValues : Prop :=
  State.reset.instances ≠ [] ∧ ∀ p ∈ State.reset.instances,
    let e := p.engine
    e.configured = false ∧
    (e.cfgWindow = 64 ∧ e.cfgMin = 8192 ∧ e.cfgAvg = 16384 ∧ e.cfgMax = 32768 ∧ e.cfgFlags = 0) ∧
    (e.actWindow = 0 ∧ e.actMin = 0 ∧ e.actAvg = 0 ∧ e.actMax = 0 ∧ e.actFlags = 0) ∧
    (∀ i, Table.entry e.shift i = 0 ∧ Table.entry e.drop i = 0) ∧
    (e.hash = 0 ∧ e.chunkSize = 0 ∧ e.total = 0 ∧ e.cursor = 0 ∧ e.zipCnt = 0) ∧
    (∀ j, Memory.read e.win j = 0) ∧ e.cacc = [] ∧ e.sacc = [] ∧ e.q = [] ∧
    (e.outValid = false ∧ e.outSize = 0 ∧ ∀ k, Memory.read e.outDigest k = 0) ∧
    (e.statsValid = false ∧ e.statsSize = 0 ∧ ∀ k, Memory.read e.statsDigest k = 0) ∧
    e.err.code = 0 ∧ e.fault = false

/-- 30_encoding.md R97 and R98: the decoder reads back every well-formed command from its word. -/
def Obligations.DecodeOfEncode : Prop :=
  ∀ i : Instr, i.wf = true → decode (encode i) = some i

/-- 30_encoding.md R97 and R98: a word the decoder accepts is the word of the term it decodes to, so that
no two words have one term. For the words of the hint space, which all stand for the one `nop` of R97,
this holds by the model's choice to keep their ignored fields in the term (notes/assumptions 16). -/
def Obligations.EncodeOfDecode : Prop :=
  ∀ (w : Word) (i : Instr), decode w = some i → i.wf = true ∧ encode i = w

/-- 30_encoding.md R97: the decoder, in arithmetic on the word's value. -/
def Obligations.DecoderReadsFieldsOfWord : Prop :=
  ∀ w : Word,
    let n := w.toNat
    let opc := n % 256
    let opa := n / 2 ^ 8 % 256
    let data := n / 2 ^ 16
    decode w =
      if opc = 0 then some (.nop (BitVec.ofNat 8 opa) (BitVec.ofNat 48 data))
      else if opc = 1 then (if opa = 0 ∧ data = 0 then some .cfg else none)
      else if opc = 2 then (if data = 0 then some (.upd (BitVec.ofNat 8 opa)) else none)
      else if opc = 3 then
        (if opa < 1 ∨ 6 < opa then none
        else if n / 2 ^ (16 + 8 * opa) ≠ 0 then none
        else some (.updp ((List.range opa).map fun k => BitVec.ofNat 8 (n / 2 ^ (16 + 8 * k)))))
      else if opc = 4 then (if opa = 0 ∧ data = 0 then some .fin else none)
      else if opc = 5 then (if opa = 0 ∧ data = 0 then some .pop else none)
      else if opc = 6 then (if data = 0 then some (.roll (BitVec.ofNat 8 opa)) else none)
      else if opc = 7 then (if opa = 0 ∧ data = 0 then some .hrst else none)
      else none

/-- 95_test_vectors.md section 2.6: words written out from the encoding decode to their commands. -/
def Obligations.SampleWordsDecode : Prop :=
  decode 0xDEADBEEF00001200 = some (.nop 0x12 0xDEADBEEF0000) ∧
  decode 0x0000000000000001 = some .cfg ∧
  decode 0x000000000000FF02 = some (.upd 0xFF) ∧
  decode 0x0000008531330303 = some (.updp [0x33, 0x31, 0x85]) ∧
  decode 0x0706050403020603 = some (.updp [0x02, 0x03, 0x04, 0x05, 0x06, 0x07]) ∧
  decode 0x0000000000000004 = some .fin ∧
  decode 0x0000000000000005 = some .pop ∧
  decode 0x0000000000004106 = some (.roll 0x41) ∧
  decode 0x0000000000000007 = some .hrst ∧
  decode 0x0000018531330303 = none ∧
  decode 0x0000000000000703 = none ∧
  decode 0x0000000000000008 = none

/-! ### Running a command -/

/-- 30_encoding.md R85: an 8-byte write of a legal word to offset 0 by the owner decodes the word and
runs the command to completion on that instance; a read of offset 0 returns 0 and executes nothing.
(For a word that is not legal see IllegalWordsAreReportedOrRefused.) -/
def Obligations.StepRunsTheWrittenCommand : Prop :=
  ∀ (s : State) (rest : List HostEvent) (a : Access) (p : EngineInstance),
    s.pending = .access a :: rest → s.instances[a.inst.toNat]? = some p → a.agent = p.owner →
    a.off = 0 → a.size = 8 →
    (∀ w i, a.kind = .write w → decode w = some i →
      step s = exec i { s with pending := rest, cur := a.inst }) ∧
    (a.kind = .read →
      step s = .next { s with pending := rest, cur := a.inst, readData := some 0 })

/-- 60_exceptions.md R238 and 20_memory.md R70: a command changes the engine of its own instance only;
every other instance, every owner and the host's side of the machine are as before. -/
def Obligations.CommandTouchesOnlyItsInstance : Prop :=
  ∀ (i : Instr) (s s' : State), exec i s = .next s' →
    s'.cur = s.cur ∧ s'.pending = s.pending ∧ s'.readData = s.readData ∧
    s'.instances.map (·.owner) = s.instances.map (·.owner) ∧
    ∀ j, j ≠ s.cur.toNat → s'.instances[j]? = s.instances[j]?

/-- 30_encoding.md R95: every word with `OPC = 0`, whatever its other bits, changes nothing but
`ERR <- 0`, configured or not; while `FAULT = 1` it is `HALTED`. -/
def Obligations.NopChangesOnlyErr : Prop :=
  ∀ (s : State) (e : Engine), s.engine? = some e →
    (∀ w : Word, w.toNat % 256 = 0 →
      runWord w s = .next (s.setEngine { e with err := if e.fault then .halted else .none })) ∧
    (∀ opa data, exec (.nop opa data) s =
      .next (s.setEngine { e with err := if e.fault then .halted else .none }))

/-- 60_exceptions.md R223: while `FAULT = 1` every word, legal or not, sets `ERR <- 7` and does nothing
else; register reads and CFG writes still work. -/
def Obligations.FaultedEngineIsHalted : Prop :=
  ∀ (s : State) (e : Engine), s.engine? = some e → e.fault = true →
    (∀ w : Word, runWord w s = .next (s.setEngine { e with err := .halted })) ∧
    ErrCode.halted.code = 7 ∧
    (∀ off size, readPermitted off size = true → (e.hostRead Config.build off size).isSome = true) ∧
    ∀ v : Word,
      performWrite 0x010 v s = .next (s.setEngine { e with cfgWindow := v }) ∧
      performWrite 0x018 v s = .next (s.setEngine { e with cfgMin := v }) ∧
      performWrite 0x020 v s = .next (s.setEngine { e with cfgAvg := v }) ∧
      performWrite 0x028 v s = .next (s.setEngine { e with cfgMax := v }) ∧
      performWrite 0x030 v s = .next (s.setEngine { e with cfgFlags := v &&& 1 })

/-- 60_exceptions.md R224: NOP and CONFIGURE are the only commands legal while `CONFIGURED = 0`; every
other one changes nothing but `ERR <- 3`. -/
def Obligations.UnconfiguredEngineRefusesCommands : Prop :=
  ∀ (s : State) (e : Engine) (i : Instr), s.engine? = some e → e.fault = false →
    e.configured = false →
    match i with
    | .nop _ _ => exec i s = .next (s.setEngine { e with err := .none })
    | .cfg => acceptable Config.build e → ∃ t : Engine, t.configured = true ∧ t.err = .none ∧
        exec i s = .next (s.setEngine t)
    | _ => exec i s = .next (s.setEngine { e with err := .notConfigured }) ∧
        ErrCode.notConfigured.code = 3

/-- 30_encoding.md R92, R93: a nonzero reserved field, a bad `updp` count or tail, or a reserved opcode
raises `ILLEGAL_CMD` and changes nothing but `ERR`. -/
def Obligations.IllegalWordChangesOnlyErr : Prop :=
  ∀ (s : State) (e : Engine) (w : Word), s.engine? = some e → e.fault = false →
    let n := w.toNat
    let opc := n % 256
    let opa := n / 2 ^ 8 % 256
    let data := n / 2 ^ 16
    ((opc = 1 ∨ opc = 4 ∨ opc = 5 ∨ opc = 7) ∧ (opa ≠ 0 ∨ data ≠ 0)) ∨
      ((opc = 2 ∨ opc = 6) ∧ data ≠ 0) ∨
      (opc = 3 ∧ (opa = 0 ∨ 6 < opa ∨ n / 2 ^ (16 + 8 * opa) ≠ 0)) ∨
      (0x08 ≤ opc ∧ opc ≤ 0x7F) →
    runWord w s = .next (s.setEngine { e with err := .illegalCmd }) ∧ ErrCode.illegalCmd.code = 4

/-- 60_exceptions.md R221: the codes, which of them are fatal, what raises each and what it records, for
every word written to CMD (of a custom word, the outcome of the hardware: notes/assumptions 11). -/
def Obligations.OutcomeCodes : Prop :=
  (ErrCode.none.code = 0 ∧ ErrCode.cfgAvg.code = 1 ∧ ErrCode.cfgWindow.code = 2 ∧
    ErrCode.notConfigured.code = 3 ∧ ErrCode.illegalCmd.code = 4 ∧ ErrCode.queueOverflow.code = 5 ∧
    ErrCode.countOverflow.code = 6 ∧ ErrCode.halted.code = 7) ∧
  ∀ (c : Config) (e : Engine) (w : Word),
    let t := e.runWord c w
    (t.err = .none → t.fault = false ∧ (decode w).isSome = true) ∧
    (t.err = .cfgAvg → t.fault = false ∧ decode w = some .cfg ∧ ¬ ∃ k, e.cfgAvg.toNat = 2 ^ k) ∧
    (t.err = .cfgWindow → t.fault = false ∧ decode w = some .cfg ∧
      (e.cfgWindow = 0 ∨ c.winCap < e.cfgWindow.toNat ∨
        (c.tableStrategy = .const64 ∧ e.cfgWindow ≠ 64))) ∧
    (t.err = .notConfigured → t.fault = false ∧ e.configured = false ∧ ∃ i, decode w = some i ∧
      i ≠ .cfg ∧ ∀ opa data, i ≠ .nop opa data) ∧
    (t.err = .illegalCmd → t.fault = false ∧ decode w = none) ∧
    (t.err = .queueOverflow → t.fault = true ∧ c.qCap = some t.q.length ∧
      ((∃ b, decode w = some (.upd b)) ∨ (∃ l, decode w = some (.updp l)) ∨
        decode w = some .fin)) ∧
    (t.err = .countOverflow → t.fault = true ∧ t.total.toNat = 2 ^ 64 - 1 ∧
      ((∃ b, decode w = some (.upd b)) ∨ ∃ l, decode w = some (.updp l))) ∧
    (t.err = .halted → e.fault = true ∧ t.fault = true)

/-- 60_exceptions.md R222: a non-fatal error leaves every state element except `ERR` as it was, for
every word written to CMD. -/
def Obligations.NonFatalErrorsChangeNothingElse : Prop :=
  ∀ (c : Config) (e : Engine) (w : Word),
    let t := e.runWord c w
    t.err = .cfgAvg ∨ t.err = .cfgWindow ∨ t.err = .notConfigured ∨ t.err = .illegalCmd ∨
      t.err = .halted → t = { e with err := t.err }

/-- 60_exceptions.md R230: when several outcomes apply, the first in the order `HALTED`, `ILLEGAL_CMD`,
`NOT_CONFIGURED`, `CFG_AVG`, `CFG_WINDOW`, then `COUNT_OVERFLOW` before `QUEUE_OVERFLOW` for one byte (of a
custom word, the outcome of the hardware: notes/assumptions 11). -/
def Obligations.OutcomePriority : Prop :=
  ∀ (c : Config) (e : Engine) (w : Word),
    (e.fault = true → (e.runWord c w).err = .halted) ∧
    (e.fault = false → decode w = none → (e.runWord c w).err = .illegalCmd) ∧
    (e.fault = false → e.configured = false →
      (∃ i, decode w = some i ∧ i ≠ .cfg ∧ ∀ opa data, i ≠ .nop opa data) →
      (e.runWord c w).err = .notConfigured) ∧
    (e.fault = false → decode w = some .cfg → (¬ ∃ k, e.cfgAvg.toNat = 2 ^ k) →
      (e.runWord c w).err = .cfgAvg) ∧
    (e.fault = false → decode w = some .cfg → (∃ k, e.cfgAvg.toNat = 2 ^ k) →
      ¬ acceptable c e → (e.runWord c w).err = .cfgWindow) ∧
    (∀ b, ready e → decode w = some (.upd b) → e.total.toNat = 2 ^ 64 - 1 →
      (e.runWord c w).err = .countOverflow) ∧
    (∀ b, ready e → decode w = some (.upd b) → e.total.toNat < 2 ^ 64 - 1 → e.actAvg ≠ 0 →
      e.chunkSize.toNat ≤ e.total.toNat → ¬ skips c e b → isBoundary c e b →
      c.qCap = some e.q.length → (e.runWord c w).err = .queueOverflow)

/-! ### Configuration -/

/-- 42_chunker.md R151: the configuration check in its order; `MIN` and `MAX` are not looked at. -/
def Obligations.ConfigureChecksOptionsInOrder : Prop :=
  ∀ (c : Config) (e : Engine), e.fault = false →
    ((¬ ∃ k, e.cfgAvg.toNat = 2 ^ k) → e.cmdCfg c = { e with err := .cfgAvg }) ∧
    ((∃ k, e.cfgAvg.toNat = 2 ^ k) →
      (e.cfgWindow.toNat = 0 ∨ c.winCap < e.cfgWindow.toNat ∨
        (c.tableStrategy = .const64 ∧ e.cfgWindow.toNat ≠ 64)) →
      e.cmdCfg c = { e with err := .cfgWindow }) ∧
    (acceptable c e → (e.cmdCfg c).err = .none)

/-- 42_chunker.md R152, R153: CONFIGURE on acceptable options latches them, builds the tables, resets
the whole engine and keeps the staged options. -/
def Obligations.ConfigureConstructsEngine : Prop :=
  ∀ (s : State) (e : Engine), s.engine? = some e → e.fault = false →
    acceptable Config.build e →
    ∃ t : Engine, exec .cfg s = .next (s.setEngine t) ∧
      (t.configured = true ∧ t.fault = false ∧ t.err = .none) ∧
      (t.cfgWindow = e.cfgWindow ∧ t.cfgMin = e.cfgMin ∧ t.cfgAvg = e.cfgAvg ∧
        t.cfgMax = e.cfgMax ∧ t.cfgFlags = e.cfgFlags) ∧
      (t.actWindow = e.cfgWindow ∧ t.actMin = e.cfgMin ∧ t.actAvg = e.cfgAvg ∧
        t.actMax = e.cfgMax ∧ t.actFlags.toNat = e.cfgFlags.toNat % 2) ∧
      (∀ i : Byte, Table.entry t.shift i =
        reduce (i.toNat <<< 63) Config.build.poly.toNat ^^^ BitVec.ofNat 64 ((i.toNat % 2) <<< 63)) ∧
      (∀ i : Byte, Table.entry t.drop i =
        reduce (i.toNat <<< (8 * e.cfgWindow.toNat)) Config.build.poly.toNat) ∧
      (t.hash = 0 ∧ (∀ j, Memory.read t.win j = 0) ∧ t.cursor = 0) ∧
      (t.chunkSize = 0 ∧ t.zipCnt = 0 ∧ t.cacc = []) ∧
      (t.total = 0 ∧ t.sacc = [] ∧ t.q = []) ∧
      (t.outValid = false ∧ t.outSize = 0 ∧ ∀ k, Memory.read t.outDigest k = 0) ∧
      (t.statsValid = false ∧ t.statsSize = 0 ∧ ∀ k, Memory.read t.statsDigest k = 0)

/-- 10_state.md R23: a staged option has no effect on any command but CONFIGURE, no command writes one,
and only a CONFIGURE that succeeds writes the active options. -/
def Obligations.StagedOptionsActOnlyThroughConfigure : Prop :=
  ∀ (c : Config) (e : Engine) (i : Instr),
    (i ≠ .cfg → ∀ w mn av mx fl : Word,
      Engine.run c { e with cfgWindow := w, cfgMin := mn, cfgAvg := av, cfgMax := mx, cfgFlags := fl } i
        = { e.run c i with
            cfgWindow := w, cfgMin := mn, cfgAvg := av, cfgMax := mx, cfgFlags := fl }) ∧
    ((e.run c i).cfgWindow = e.cfgWindow ∧ (e.run c i).cfgMin = e.cfgMin ∧
      (e.run c i).cfgAvg = e.cfgAvg ∧ (e.run c i).cfgMax = e.cfgMax ∧
      (e.run c i).cfgFlags = e.cfgFlags) ∧
    (((e.run c i).actWindow = e.actWindow ∧ (e.run c i).actMin = e.actMin ∧
        (e.run c i).actAvg = e.actAvg ∧ (e.run c i).actMax = e.actMax ∧
        (e.run c i).actFlags = e.actFlags) ∨
      (i = .cfg ∧ (e.run c i).err = .none ∧ (e.run c i).actWindow = e.cfgWindow ∧
        (e.run c i).actMin = e.cfgMin ∧ (e.run c i).actAvg = e.cfgAvg ∧
        (e.run c i).actMax = e.cfgMax ∧ (e.run c i).actFlags = e.cfgFlags &&& 1))

/-- 40_polynomial_table.md R118: after a successful CONFIGURE the tables are those of `POLY` and
`ACT_WINDOW`, no other command changes them, and the tables depend on `POLY` and the window alone. -/
def Obligations.OnlyConfigureWritesTables : Prop :=
  ∀ (c : Config) (e : Engine) (i : Instr),
    ((i ≠ .cfg ∨ (e.run c i).err ≠ .none) →
      (e.run c i).shift = e.shift ∧ (e.run c i).drop = e.drop) ∧
    (i = .cfg → (e.run c i).err = .none → tablesBuilt c (e.run c i)) ∧
    ∀ c' : Config, c'.poly = c.poly →
      shiftTable c' = shiftTable c ∧ ∀ w, dropTable c' w = dropTable c w

/-- 40_polynomial_table.md R119: under `RUNTIME` CONFIGURE builds the tables for every legal window;
under `CONST64` it rejects every window but 64, and at 64 it gives the very engine that `RUNTIME`
gives, whose tables are those for 64. -/
def Obligations.TableStrategyIsUnobservable : Prop :=
  ∀ (c : Config) (e : Engine), e.fault = false → (∃ k, e.cfgAvg.toNat = 2 ^ k) →
    (c.tableStrategy = .runtime → 1 ≤ e.cfgWindow.toNat → e.cfgWindow.toNat ≤ c.winCap →
      (e.cmdCfg c).err = .none ∧ (e.cmdCfg c).shift = shiftTable c ∧
        (e.cmdCfg c).drop = dropTable c e.cfgWindow.toNat) ∧
    (c.tableStrategy = .const64 →
      (e.cfgWindow = 64 → (e.cmdCfg c).err = .none ∧ (e.cmdCfg c).shift = shiftTable c ∧
        (e.cmdCfg c).drop = dropTable c 64 ∧
        e.cmdCfg c = e.cmdCfg { c with tableStrategy := .runtime, const64_legal := by simp }) ∧
      (e.cfgWindow ≠ 64 → e.cmdCfg c = { e with err := .cfgWindow }))

/-! ### The Polynomial Table unit -/

/-- 40_polynomial_table.md R111: `reduce` is the loop of the rule: below the modulus's bit-degree the
value is the result, else one aligned XOR, which shortens the value, is done and the loop goes on; the
result is shorter than the modulus. -/
def Obligations.ReduceIsLongDivision : Prop :=
  ∀ (v m : Nat), m ≠ 0 → m < 2 ^ 64 →
    (bitlen v < bitlen m → reduce v m = BitVec.ofNat 64 v) ∧
    (bitlen m ≤ bitlen v →
      bitlen (v ^^^ (m <<< (bitlen v - bitlen m))) < bitlen v ∧
      reduce v m = reduce (v ^^^ (m <<< (bitlen v - bitlen m))) m) ∧
    bitlen (reduce v m).toNat < bitlen m

/-- 40_polynomial_table.md R120: both tables are linear over GF(2), are 0 at 0, and are fixed by their
eight entries at the powers of two. -/
def Obligations.TablesAreLinear : Prop :=
  ∀ (c : Config) (w : Nat),
    (∀ a b : Byte,
      Table.entry (shiftTable c) (a ^^^ b) =
        Table.entry (shiftTable c) a ^^^ Table.entry (shiftTable c) b ∧
      Table.entry (dropTable c w) (a ^^^ b) =
        Table.entry (dropTable c w) a ^^^ Table.entry (dropTable c w) b) ∧
    Table.entry (shiftTable c) 0 = 0 ∧ Table.entry (dropTable c w) 0 = 0 ∧
    ∀ (c' : Config) (w' : Nat),
      ((∀ k < 8, Table.entry (shiftTable c) (BitVec.twoPow 8 k) =
          Table.entry (shiftTable c') (BitVec.twoPow 8 k)) → shiftTable c = shiftTable c') ∧
      ((∀ k < 8, Table.entry (dropTable c w) (BitVec.twoPow 8 k) =
          Table.entry (dropTable c' w') (BitVec.twoPow 8 k)) → dropTable c w = dropTable c' w')

/-- 40_polynomial_table.md R121: bit 63 of `SHIFT[i]` is bit 0 of `i`, bits 62:0 are `i * x^63 mod P`,
and `SHIFT[1]` is `POLY`. -/
def Obligations.ShiftTableShape : Prop :=
  ∀ c : Config,
    (∀ i : Byte, (Table.entry (shiftTable c) i).getLsbD 63 = i.getLsbD 0 ∧
      (Table.entry (shiftTable c) i).toNat % 2 ^ 63 =
        (reduce (i.toNat <<< 63) c.poly.toNat).toNat) ∧
    Table.entry (shiftTable c) 1 = c.poly

/-- 40_polynomial_table.md R122: every `DROP[i]` is below `2^63` and is `i * x^(8W) mod P`, which is
`i << (8*W)` when that has at most 63 bits: for every `i` when `W <= 6`, for `i < 128` when `W = 7`. -/
def Obligations.DropTableShape : Prop :=
  ∀ (c : Config) (w : Nat) (i : Byte),
    (Table.entry (dropTable c w) i).toNat < 2 ^ 63 ∧
    Table.entry (dropTable c w) i = reduce (i.toNat <<< (8 * w)) c.poly.toNat ∧
    (8 * w + bitlen i.toNat ≤ 63 ∨ w ≤ 6 ∨ (w = 7 ∧ i.toNat < 128) →
      (Table.entry (dropTable c w) i).toNat = i.toNat <<< (8 * w))

/-! ### The rolling hash -/

/-- 41_rolling_hash.md R131, R133: ROLL on a ready engine writes `HASH`, `WIN[CURSOR]` and `CURSOR` as
`Roll(b)` says, from the values before, and `ERR`; it changes nothing else. -/
def Obligations.RollUpdatesHashWindowAndCursor : Prop :=
  ∀ (s : State) (e : Engine) (b : Byte), s.engine? = some e → ready e →
    Memory.wf e.win = true → e.hash.toNat < 2 ^ 63 → e.cursor.toNat < e.optW →
    ∃ t : Engine, exec (.roll b) s = .next (s.setEngine t) ∧
      t = { e with hash := t.hash, win := t.win, cursor := t.cursor, err := .none } ∧
      t.hash.toNat = ((e.hash.toNat <<< 8) % 2 ^ 64) ^^^ b.toNat ^^^
        (Table.entry e.drop (Memory.read e.win e.cursor.toNat)).toNat ^^^
        (Table.entry e.shift (BitVec.ofNat 8 (e.hash.toNat >>> 55))).toNat ∧
      e.hash.toNat >>> 55 < 256 ∧
      t.cursor.toNat = (e.cursor.toNat + 1) % e.optW ∧
      ∀ j, Memory.read t.win j = if j = e.cursor.toNat then b else Memory.read e.win j

/-- 41_rolling_hash.md R135: HASH_RESET clears `HASH` and every byte of `WIN`, keeps `CURSOR` and
everything else; `HALTED` and `NOT_CONFIGURED` as for ROLL, `ILLEGAL_CMD` for its reserved bits. -/
def Obligations.HashResetClearsHashAndWindow : Prop :=
  ∀ (s : State) (e : Engine), s.engine? = some e →
    onlyWord 0x07 .hrst s e ∧
    (e.fault = true → exec .hrst s = .next (s.setEngine { e with err := .halted })) ∧
    (e.fault = false → e.configured = false →
      exec .hrst s = .next (s.setEngine { e with err := .notConfigured })) ∧
    (ready e → ∃ t : Engine, exec .hrst s = .next (s.setEngine t) ∧
      t = { e with hash := 0, win := t.win, err := .none } ∧ ∀ j, Memory.read t.win j = 0)

/-- 41_rolling_hash.md R139: with the tables of a legal `POLY`, a hash below `2^63` stays below `2^63`
over `Roll`, and its top byte is below 256. -/
def Obligations.RollKeepsHashBelowDegree : Prop :=
  ∀ (c : Config) (e : Engine) (b : Byte), tablesBuilt c e → e.hash.toNat < 2 ^ 63 →
    (e.roll b).hash.toNat < 2 ^ 63 ∧ e.hash.toNat >>> 55 < 256

/-- 41_rolling_hash.md R140: after any bytes are rolled into a cleared hash, `HASH` is the Rabin
remainder of the last `W` of them, zeros before them, and of the window read oldest first. -/
def Obligations.HashIsRabinRemainderOfWindow : Prop :=
  ∀ (c : Config) (e : Engine) (r : List Byte), tablesBuilt c e → cleared e →
    (e.rollAll r).hash = rabinRem c (lastN e.optW (List.replicate e.optW 0 ++ r)) ∧
    (e.rollAll r).hash = rabinRem c (e.rollAll r).windowBytes

/-- 41_rolling_hash.md R141: the hash after any bytes rolled from a cleared state does not depend on
where the cursor stood. -/
def Obligations.HashIsIndependentOfCursor : Prop :=
  ∀ (c : Config) (e : Engine) (cursor : Word) (r : List Byte), tablesBuilt c e → cleared e →
    cursor.toNat < e.optW → (({ e with cursor := cursor }).rollAll r).hash = (e.rollAll r).hash

/-- 41_rolling_hash.md R142: feeding any bytes and feeding only their last `m >= W` bytes after a reset
give the same hash. -/
def Obligations.RollingEquivalence : Prop :=
  ∀ (c : Config) (e : Engine) (r r' : List Byte), tablesBuilt c e → cleared e →
    e.optW ≤ r'.length → (e.rollAll (r ++ r')).hash = ((e.rollAll (r ++ r')).hashReset.rollAll r').hash

/-! ### The chunk-boundary detector -/

/-- 42_chunker.md R162: the match counter advances on the next signature byte and is else reset to 0
(or to 1 on `0x50` under `ZIP_REMATCH`); taken literally, `50 50 4B 03 04` completes no match. -/
def Obligations.ZipMatchCounter : Prop :=
  (∀ (c : Config) (on : Bool) (cnt : Fin 5) (b : Byte),
    (zipAdvance c on cnt b).val = nextMatch c.zipRematch on cnt.val b) ∧
  (∀ n ≤ 5, (([0x50, 0x50, 0x4B, 0x03, 0x04] : List Byte).take n).foldl (nextMatch false true) 0 ≠ 4) ∧
  (([0x50, 0x50, 0x4B, 0x03, 0x04] : List Byte)).foldl (nextMatch true true) 0 = 4

/-- 42_chunker.md R172: for both values of `SKIP_COMPARE`, at a byte that does not complete the
signature the machine's fast-skip test holds exactly when the byte comes before byte `S0` of its chunk;
UPDATE_BYTE then only counts it, and from byte `S0` on it rolls it. -/
def Obligations.BytesBeforeFirstTestedAreSkipped : Prop :=
  ∀ (c : Config) (e : Engine) (b : Byte),
    let s0 := if e.optMin < e.optW then 1
      else if c.skipCompare = .pre then e.optMin - e.optW + 2 else e.optMin - e.optW + 1
    let e2 := (e.account b).zipStep c b
    e.firstTested c = s0 ∧
    (e2.seenZip = false → (e2.fastSkips c = true ↔ e.chunkSize.toNat + 1 < s0)) ∧
    (ready e → e.total.toNat < 2 ^ 64 - 1 → matchAfter c e b ≠ 4 →
      (e.chunkSize.toNat + 1 < s0 → e.cmdUpd c b = { counted c e b with err := .none }) ∧
      (s0 ≤ e.chunkSize.toNat + 1 → (e.cmdUpd c b).cursor = (e.roll b).cursor))

/-- 42_chunker.md R163: a byte in the fast-skip region is accounted for and counted, and changes
nothing else: no hash, no window, no cursor, no queue, whatever `MAX` is. -/
def Obligations.SkippedByteIsOnlyCounted : Prop :=
  ∀ (s : State) (e : Engine) (b : Byte), s.engine? = some e → ready e →
    e.total.toNat < 2 ^ 64 - 1 → skips Config.build e b →
    exec (.upd b) s = .next (s.setEngine { counted Config.build e b with err := .none })

/-- 42_chunker.md R164, R165: a byte that is not skipped and is no boundary is accounted for, rolled
and counted, and changes nothing else. -/
def Obligations.RolledByteIsCounted : Prop :=
  ∀ (s : State) (e : Engine) (b : Byte), s.engine? = some e → ready e →
    e.total.toNat < 2 ^ 64 - 1 → e.chunkSize.toNat ≤ e.total.toNat → e.actAvg ≠ 0 →
    ¬ skips Config.build e b → ¬ isBoundary Config.build e b →
    exec (.upd b) s = .next (s.setEngine { countedAndRolled Config.build e b with err := .none })

/-- 42_chunker.md R166 to R169: a byte that is not skipped and is a boundary ends the chunk: the record
of its size and of the digest of its bytes is enqueued and the chunk-local state reset; the cursor
stays where the roll left it. -/
def Obligations.BoundaryByteCutsChunk : Prop :=
  ∀ (s : State) (e : Engine) (b : Byte), s.engine? = some e → ready e →
    e.total.toNat < 2 ^ 64 - 1 → e.chunkSize.toNat ≤ e.total.toNat → e.actAvg ≠ 0 →
    ¬ skips Config.build e b → isBoundary Config.build e b →
    exec (.upd b) s = .next (s.setEngine { e with
      sacc := e.sacc ++ [b]
      total := BitVec.ofNat 64 (e.total.toNat + 1)
      q := e.q ++ [⟨BitVec.ofNat 64 (e.chunkSize.toNat + 1),
        (Config.build.chunkDigest (e.cacc ++ [b])).toList⟩]
      hash := 0, chunkSize := 0, zipCnt := 0, win := [], cacc := []
      cursor := (e.roll b).cursor
      err := .none })

/-- 60_exceptions.md R226: a byte fed at `TOTAL = 2^64 - 1` sets `FAULT` and `ERR <- 6` and changes
nothing else. -/
def Obligations.CountOverflowStopsEngine : Prop :=
  ∀ (s : State) (e : Engine) (b : Byte), s.engine? = some e → ready e →
    e.total.toNat = 2 ^ 64 - 1 →
    exec (.upd b) s = .next (s.setEngine { e with err := .countOverflow, fault := true }) ∧
    ErrCode.countOverflow.code = 6

/-- 60_exceptions.md R227, R228: a cut with a full finite queue sets `FAULT` and `ERR <- 5` with steps 1
to 5 of the byte done and the record not enqueued; FINALIZE with bytes to flush does so before any
change; an unbounded queue never overflows. -/
def Obligations.QueueOverflowStopsEngine : Prop :=
  ∀ (c : Config) (e : Engine), ready e → ErrCode.queueOverflow.code = 5 ∧
    (c.qCap = some e.q.length →
      (∀ b, e.total.toNat < 2 ^ 64 - 1 → e.chunkSize.toNat ≤ e.total.toNat → e.actAvg ≠ 0 →
        ¬ skips c e b → isBoundary c e b →
        e.cmdUpd c b = { countedAndRolled c e b with err := .queueOverflow, fault := true }) ∧
      (e.chunkSize ≠ 0 → e.cmdFin c = { e with err := .queueOverflow, fault := true })) ∧
    (c.qCap = none → ∀ i, (e.run c i).err ≠ .queueOverflow)

/-- 42_chunker.md R156: UPDATE_PACKED runs its bytes in order: it equals UPDATE_BYTE of the first byte
and then UPDATE_PACKED of the others, and ends at a byte whose step is fatal; the guards come first. -/
def Obligations.PackedUpdateIsByteUpdatesInOrder : Prop :=
  ∀ (c : Config) (e : Engine) (b : Byte) (rest : List Byte),
    e.cmdUpdp c [b] = e.cmdUpd c b ∧
    ((e.cmdUpd c b).fault = false → rest ≠ [] →
      e.cmdUpdp c (b :: rest) = (e.cmdUpd c b).cmdUpdp c rest) ∧
    (e.fault = false → (e.cmdUpd c b).fault = true → e.cmdUpdp c (b :: rest) = e.cmdUpd c b) ∧
    (e.fault = true → e.cmdUpdp c (b :: rest) = { e with err := .halted }) ∧
    (e.fault = false → e.configured = false →
      e.cmdUpdp c (b :: rest) = { e with err := .notConfigured })

/-- 42_chunker.md R155, R156: UPDATE_PACKED of 1 to 6 bytes on a ready engine whose byte count has room
completes, feeds every byte in order, keeps the queue's records in place, and leaves the options, the
tables, OUT and Stats alone. -/
def Obligations.PackedUpdateFeedsEveryByte : Prop :=
  ∀ (s : State) (e : Engine) (bytes : List Byte), s.engine? = some e → ready e →
    Instr.wf (.updp bytes) = true → e.total.toNat + bytes.length ≤ 2 ^ 64 - 1 →
    ∃ t : Engine, exec (.updp bytes) s = .next (s.setEngine t) ∧
      t.err = .none ∧ t.fault = false ∧
      t.total.toNat = e.total.toNat + bytes.length ∧ t.sacc = e.sacc ++ bytes ∧
      e.q <+: t.q ∧
      t = { e with
        hash := t.hash, win := t.win, cursor := t.cursor, chunkSize := t.chunkSize
        zipCnt := t.zipCnt, cacc := t.cacc, total := t.total, sacc := t.sacc, q := t.q
        err := t.err }

/-- 42_chunker.md R154: slice boundaries have no effect: packed words in any split do what the single
bytes do, where these run without a fatal fault. -/
def Obligations.SliceBoundariesHaveNoEffect : Prop :=
  ∀ (c : Config) (e : Engine) (slices : List (List Byte)), (∀ l ∈ slices, l ≠ []) →
    (e.runAll c (slices.flatten.map .upd)).fault = false →
    e.runAll c (slices.map .updp) = e.runAll c (slices.flatten.map .upd)

/-- 42_chunker.md R173: the size of a chunk that a byte cuts without a zip match lies between `S0` and
`max(S0, MAX)` and reaches `MIN` or `MAX`; within the source's bound when the options allow it, and
exactly `S0` when `MAX < S0`. -/
def Obligations.ChunkSizeBounds : Prop :=
  ∀ (c : Config) (e : Engine) (b : Byte) (r : Chunk), e.Inv c → ready e →
    matchAfter c e b ≠ 4 → (e.cmdUpd c b).q = e.q ++ [r] →
    let s0 := e.firstTested c
    let n := r.size.toNat
    s0 ≤ n ∧ n ≤ max s0 e.optMax ∧ (e.optMin ≤ n ∨ e.optMax ≤ n) ∧
    (e.optMin ≤ e.optMax → s0 ≤ e.optMax → e.optMin ≤ n ∧ n ≤ e.optMax) ∧
    (e.optMax < s0 → n = s0)

/-- 42_chunker.md R177, R178: from a fresh stream, whatever commands but CONFIGURE, FINALIZE and POP
feed it, the records enqueued up to FINALIZE are those of consecutive nonempty parts of the bytes fed,
and together they are all of them; the Stats are those of all the bytes. -/
def Obligations.RecordsPartitionTheStream : Prop :=
  ∀ (c : Config) (e : Engine) (is : List Instr), e.configured = true →
    e.total = 0 → e.chunkSize = 0 → e.cacc = [] → e.sacc = [] →
    (∀ i ∈ is, i ≠ .cfg ∧ i ≠ .fin ∧ i ≠ .pop) →
    let bytes := is.flatMap fedBytes
    let t := e.runAll c (is ++ [.fin])
    t.fault = false →
    ∃ parts : List (List Byte), parts.flatten = bytes ∧ (∀ p ∈ parts, p ≠ []) ∧
      t.q = e.q ++ parts.map (fun p => ⟨BitVec.ofNat 64 p.length, (c.chunkDigest p).toList⟩) ∧
      (∀ p ∈ parts, p.length < 2 ^ 64) ∧
      t.statsSize.toNat = bytes.length ∧ t.statsValid = true ∧
      ∀ k, Memory.read t.statsDigest k = (c.streamDigest bytes).toList[k]?.getD 0

/-! ### Finalize and the output queue -/

/-- 43_output.md R190, R191: FINALIZE on a ready engine writes the Stats of the stream, enqueues the
partial chunk if it has bytes, resets the stream and the chunk-local state, and keeps the options, the
tables, `CURSOR` and OUT. -/
def Obligations.FinalizeClosesStream : Prop :=
  ∀ (s : State) (e : Engine), s.engine? = some e → ready e →
    ∃ t : Engine, exec .fin s = .next (s.setEngine t) ∧
      t = { e with
        q := e.q ++ (if e.chunkSize.toNat = 0 then []
          else [⟨e.chunkSize, (Config.build.chunkDigest e.cacc).toList⟩])
        total := 0, sacc := [], hash := 0, chunkSize := 0, zipCnt := 0, cacc := [], win := t.win
        statsSize := e.total, statsDigest := t.statsDigest, statsValid := true, err := .none } ∧
      (∀ j, Memory.read t.win j = 0) ∧
      ∀ k, Memory.read t.statsDigest k =
        if h : k < Config.build.dlS then (Config.build.streamDigest e.sacc)[k] else 0

/-- 43_output.md R195: POP moves the oldest record into OUT, or clears OUT when the queue is empty,
and changes nothing else; `HALTED` and `NOT_CONFIGURED` come first, and its reserved bits are
`ILLEGAL_CMD`. -/
def Obligations.PopMovesOldestRecord : Prop :=
  ∀ (s : State) (e : Engine), s.engine? = some e →
    onlyWord 0x05 .pop s e ∧
    (e.fault = true → exec .pop s = .next (s.setEngine { e with err := .halted })) ∧
    (e.fault = false → e.configured = false →
      exec .pop s = .next (s.setEngine { e with err := .notConfigured })) ∧
    (ready e → ∃ t : Engine, exec .pop s = .next (s.setEngine t) ∧
      t = { e with
        q := e.q.tail, outValid := t.outValid, outSize := t.outSize, outDigest := t.outDigest
        err := .none } ∧
      (e.q = [] → t.outValid = false ∧ t.outSize = 0 ∧ ∀ k, Memory.read t.outDigest k = 0) ∧
      ∀ r rest, e.q = r :: rest → t.outValid = true ∧ t.outSize = r.size ∧
        ∀ k, Memory.read t.outDigest k =
          if k < Config.build.dlC then r.digest[k]?.getD 0 else 0)

/-- 43_output.md R196, R198 and 30_encoding.md R99: `drain` returns exactly the records that were in
the queue, in the order they were enqueued, leaves the queue empty with `OUT_VALID = 0`, and changes
nothing of the chunker. -/
def Obligations.DrainReturnsRecordsInOrder : Prop :=
  ∀ (c : Config) (e : Engine), ready e → (∀ r ∈ e.q, r.digest.length = c.dlC) →
    let result := e.drain c (e.q.length + 1)
    result.1 = e.q.map (fun r => (r.size, Memory.ofBytes r.digest)) ∧
    result.2 = { e with q := [], outValid := false, outSize := 0, outDigest := [], err := .none }

/-- 43_output.md R195, corner case, and 42_chunker.md R179: POP of a waiting record may come before or
after an update: the two orders give the same engine. -/
def Obligations.PopCommutesWithUpdate : Prop :=
  ∀ (c : Config) (e : Engine) (b : Byte), c.qCap = none → e.q ≠ [] →
    e.total.toNat < 2 ^ 64 - 1 → (e.cmdPop c).cmdUpd c b = (e.cmdUpd c b).cmdPop c

/-- 30_encoding.md R99: `feed` of `m` bytes is `ceil(m/6)` UPDATE_PACKED commands, the `j`-th carrying
bytes `6j` to `min(6j+5, m-1)`; each is well formed and together they carry the bytes in order. -/
def Obligations.FeedSplitsIntoSixes : Prop :=
  ∀ bytes : List Byte,
    (feedCommands bytes).length = (bytes.length + 5) / 6 ∧
    (∀ j, (feedCommands bytes)[j]? =
      if 6 * j < bytes.length then some (.updp ((bytes.drop (6 * j)).take 6)) else none) ∧
    (∀ i ∈ feedCommands bytes, i.wf = true) ∧
    (feedCommands bytes).flatMap fedBytes = bytes

/-! ### The register block -/

/-- 20_memory.md R60: an address of the window names one instance and one offset and is the address
of that pair; an address outside the window names none. -/
def Obligations.WindowAddressesNameInstanceAndOffset : Prop :=
  ∀ c : Config,
    (∀ (i : BitVec 4) (off : BitVec 14), i.toNat < c.nInst →
      c.devBase + i.toNat * 0x4000 ≤ hostAddress c i off ∧
      hostAddress c i off < c.devBase + (i.toNat + 1) * 0x4000 ∧
      locate c (hostAddress c i off) = some (i, off)) ∧
    (∀ (addr : Nat) (i : BitVec 4) (off : BitVec 14), locate c addr = some (i, off) →
      i.toNat < c.nInst ∧ hostAddress c i off = addr) ∧
    ∀ addr : Nat, locate c addr = none ↔
      addr < c.devBase ∨ c.devBase + c.nInst * 0x4000 ≤ addr

/-- 20_memory.md R63: which reads and writes are permitted and answered, and that any other access by the
owner is refused as a bus error. (A permitted write to CMD of a word of the custom space is no bus error
either; IllegalWordsAreReportedOrRefused says what becomes of it.) -/
def Obligations.OnlyPermittedAccessesAreAnswered : Prop :=
  ∀ (s : State) (rest : List HostEvent) (a : Access) (p : EngineInstance),
    s.pending = .access a :: rest → s.instances[a.inst.toNat]? = some p → a.agent = p.owner →
    let off := a.off.toNat
    (a.kind = .read →
      if (a.size = 8 ∧ off % 8 = 0) ∨
          (a.size = 1 ∧ ((0x100 ≤ off ∧ off < 0x200) ∨ (0x2000 ≤ off ∧ off < 0x4000))) then
        ∃ v, p.engine.hostRead Config.build off a.size = some v ∧
          step s = .next { s with pending := rest, cur := a.inst, readData := some v }
      else step s = .refused .busError) ∧
    (∀ v, a.kind = .write v →
      if a.size = 8 ∧ off % 8 = 0 then
        step s ≠ .refused .busError ∧ (off ≠ 0 ∨ v.toNat % 256 < 0x80 → ∃ s', step s = .next s')
      else step s = .refused .busError)

/-- 20_memory.md R66: a read changes nothing of the device; a write of a CFG register stores the value
(bit 0 of it in CFG_FLAGS) and nothing else; a write anywhere else but CMD is ignored. -/
def Obligations.WritesOutsideCmdOnlyStageOptions : Prop :=
  ∀ (s : State) (rest : List HostEvent) (a : Access) (p : EngineInstance),
    s.pending = .access a :: rest → s.instances[a.inst.toNat]? = some p → a.agent = p.owner →
    let off := a.off.toNat
    let s0 := { s with pending := rest, cur := a.inst }
    let e := p.engine
    (a.kind = .read → ∀ s', step s = .next s' → s'.instances = s.instances) ∧
    (∀ v, a.kind = .write v → a.size = 8 → off % 8 = 0 → off ≠ 0 →
      step s = .next (
        if off = 0x010 then s0.setEngine { e with cfgWindow := v }
        else if off = 0x018 then s0.setEngine { e with cfgMin := v }
        else if off = 0x020 then s0.setEngine { e with cfgAvg := v }
        else if off = 0x028 then s0.setEngine { e with cfgMax := v }
        else if off = 0x030 then s0.setEngine { e with cfgFlags := BitVec.ofNat 64 (v.toNat % 2) }
        else s0))

/-- 20_memory.md R64: the 1-byte read of a byte window is the byte of the 8-byte read around it. -/
def Obligations.ByteReadsAgreeWithWordReads : Prop :=
  ∀ (c : Config) (e : Engine) (off : Nat),
    (0x100 ≤ off ∧ off < 0x200) ∨ (0x2000 ≤ off ∧ off < 0x4000) →
    e.hostRead c off 1 =
      (e.hostRead c (off - off % 8) 8).map fun v : Word => (v >>> (8 * (off % 8))) &&& 0xFF

/-- 10_state.md R40: the bits of STATUS at offset 0x008, and that writes to it are ignored. -/
def Obligations.StatusBits : Prop :=
  ∀ (c : Config) (e : Engine),
    (∃ v, e.hostRead c 0x008 8 = some v ∧ v.toNat =
      e.configured.toNat + 2 * e.outValid.toNat + 4 * e.statsValid.toNat +
        8 * (decide (0 < e.q.length)).toNat + 256 * e.err.code.toNat + 4096 * e.fault.toNat) ∧
    ∀ v, e.hostWrite 0x008 v = e

/-- 10_state.md R45: what every permitted read of the block returns: the named registers, the bytes of
the windows one by one and, little-endian (20_memory.md R62), eight at a time, the table entries (0 while
`CONFIGURED = 0`), and 0 at reserved offsets, which ignore writes. That QCOUNT is the queue's length
truncated to 64 bits is the model's reading (notes/assumptions 13). -/
def Obligations.RegisterMap : Prop :=
  ∀ (c : Config) (e : Engine),
    (e.hostRead c 0x000 8 = some 0 ∧ e.hostRead c 0x008 8 = some e.status ∧
      e.hostRead c 0x010 8 = some e.cfgWindow ∧ e.hostRead c 0x018 8 = some e.cfgMin ∧
      e.hostRead c 0x020 8 = some e.cfgAvg ∧ e.hostRead c 0x028 8 = some e.cfgMax ∧
      e.hostRead c 0x030 8 = some e.cfgFlags ∧ e.hostRead c 0x038 8 = some e.hash ∧
      e.hostRead c 0x040 8 = some e.chunkSize ∧ e.hostRead c 0x048 8 = some e.total ∧
      e.hostRead c 0x050 8 = some (BitVec.ofNat 64 e.zipCnt.val) ∧
      e.hostRead c 0x058 8 = some e.cursor ∧
      e.hostRead c 0x060 8 = some (BitVec.ofNat 64 e.q.length) ∧
      e.hostRead c 0x068 8 = some e.outSize ∧ e.hostRead c 0x070 8 = some e.statsSize ∧
      e.hostRead c 0x090 8 = some e.actWindow ∧ e.hostRead c 0x098 8 = some e.actMin ∧
      e.hostRead c 0x0A0 8 = some e.actAvg ∧ e.hostRead c 0x0A8 8 = some e.actMax ∧
      e.hostRead c 0x0B0 8 = some e.actFlags) ∧
    (∀ k < 128, e.hostRead c (0x100 + k) 1 = some ((Memory.read e.outDigest k).toWord) ∧
      e.hostRead c (0x180 + k) 1 = some ((Memory.read e.statsDigest k).toWord)) ∧
    (∀ j < 8192, e.hostRead c (0x2000 + j) 1 =
      some (if j < c.winCap then (Memory.read e.win j).toWord else 0)) ∧
    (∀ off, off % 8 = 0 → (0x100 ≤ off ∧ off < 0x200) ∨ (0x2000 ≤ off ∧ off < 0x4000) →
      ∃ v : Word, e.hostRead c off 8 = some v ∧
        ∀ k < 8, e.hostRead c (off + k) 1 = some ((v >>> (8 * k)) &&& 0xFF)) ∧
    (∀ i : Byte, e.hostRead c (0x800 + 8 * i.toNat) 8 =
        some (if e.configured = true then Table.entry e.shift i else 0) ∧
      e.hostRead c (0x1000 + 8 * i.toNat) 8 =
        some (if e.configured = true then Table.entry e.drop i else 0)) ∧
    ∀ off, off % 8 = 0 →
      (0x078 ≤ off ∧ off < 0x090) ∨ (0x0B8 ≤ off ∧ off < 0x100) ∨ (0x200 ≤ off ∧ off < 0x800) ∨
        (0x1800 ≤ off ∧ off < 0x2000) →
      e.hostRead c off 8 = some 0 ∧ ∀ v, e.hostWrite off v = e

/-- 40_polynomial_table.md R124: a read of a table entry returns it, and 0 while `CONFIGURED = 0`;
`SHIFT[1]` of a configured engine reads back `POLY`. -/
def Obligations.TableEntriesAreReadable : Prop :=
  ∀ (c : Config) (e : Engine) (i : Byte),
    e.hostRead c (0x800 + 8 * i.toNat) 8 =
      some (if e.configured = true then Table.entry e.shift i else 0) ∧
    e.hostRead c (0x1000 + 8 * i.toNat) 8 =
      some (if e.configured = true then Table.entry e.drop i else 0) ∧
    (e.configured = true → tablesBuilt c e → e.hostRead c 0x808 8 = some c.poly)

/-! ### The whole machine -/

/-- 70_reset_and_hazards.md R250: power-on reset sets every state element of every instance to its
reset value, and no other event clears `FAULT` or `CONFIGURED`. That it keeps the owners and the host's
side of the machine is the model's choice (notes/assumptions 18). -/
def Obligations.OnlyPowerOnClearsFault : Prop :=
  ∀ s : State,
    (∀ rest, s.pending = .powerOnReset :: rest → ∃ s', step s = .next s' ∧
      s' = { s with pending := rest, instances := s'.instances } ∧
      s'.instances = s.instances.map fun p => { p with engine := Engine.reset }) ∧
    (∀ (s' : State) (j : Nat) (p : EngineInstance), step s = .next s' →
      s.instances[j]? = some p → s.pending.head? ≠ some .powerOnReset →
      ∃ p', s'.instances[j]? = some p' ∧
        (p.engine.fault = true → p'.engine.fault = true) ∧
        (p.engine.configured = true → p'.engine.configured = true))

/-- 20_memory.md R71 and R60: an access by an agent that does not own the instance is refused, and one
to an instance number the device does not have faults; the owner numbers are the model's choice
(notes/assumptions 8 and 10). -/
def Obligations.ForeignAccessesStop : Prop :=
  ∀ (s : State) (rest : List HostEvent) (a : Access), s.pending = .access a :: rest →
    (s.instances.length ≤ a.inst.toNat → step s = .fault .noSuchInstance) ∧
    ∀ p, s.instances[a.inst.toNat]? = some p → a.agent ≠ p.owner → step s = .refused .secondAgent

/-- 20_memory.md R70: accesses to different instances commute: performed in either order they leave the
same instances. -/
def Obligations.AccessesToDifferentInstancesCommute : Prop :=
  ∀ (s s1 s2 : State) (a b : Access), a.inst ≠ b.inst → perform a s = .next s1 →
    perform b s1 = .next s2 →
    ∃ s1' s2', perform b s = .next s1' ∧ perform a s1' = .next s2' ∧
      s2'.instances = s2.instances

/-- 10_state.md R44 and R46: the invariants hold after power-on reset. -/
def Obligations.ResetMeetsInvariants : Prop := State.reset.Inv ∧ State.reset.HashInv

/-- 10_state.md R44, items 1 to 5, 7 and 8, with 40_polynomial_table.md R118, 42_chunker.md R173 and the
reading of `FAULT` and `ERR` of 60_exceptions.md R221: every step keeps them, from any state that meets
them. -/
def Obligations.StepKeepsInvariant : Prop :=
  ∀ s s' : State, s.Inv → step s = .next s' → s'.Inv

/-- 10_state.md R44, item 6: in every instance HASH is the Rabin remainder of the window read oldest
first, after every step. -/
def Obligations.StepKeepsHashOfWindow : Prop :=
  ∀ s s' : State, s.Inv → s.HashInv → step s = .next s' → s'.HashInv

/-! ### Words that are no command -/

/-- What a CMD write of a word that is not legal does: a faulted engine is `HALTED` by every word
(60_exceptions.md R223); else a word of the custom space 0x80 to 0xFF, which never decodes, is refused
(30_encoding.md R94) and any other reports `ILLEGAL_CMD` and changes nothing else (60_exceptions.md R225).
That a custom word on a faulted engine is `HALTED`, and not refused, is the model's reading
(notes/assumptions 11). -/
def Obligations.IllegalWordsAreReportedOrRefused : Prop :=
  ∀ (s : State) (rest : List HostEvent) (a : Access) (p : EngineInstance) (w : Word),
    s.pending = .access a :: rest → s.instances[a.inst.toNat]? = some p → a.agent = p.owner →
    a.off = 0 → a.size = 8 → a.kind = .write w →
    let s0 := { s with pending := rest, cur := a.inst }
    let e := p.engine
    (0x80 ≤ w.toNat % 256 → decode w = none) ∧
    (decode w = none →
      step s =
        if e.fault = true then .next (s0.setEngine { e with err := .halted })
        else if 0x80 ≤ w.toNat % 256 then .refused .customCommand
        else .next (s0.setEngine { e with err := .illegalCmd }))
end

