-- ==== Sys2Proof/Laws/Memory.lean ====
section
/-! SUPPORT. Byte memories: every operation keeps the canonical form, reads after writes, and memories
in canonical form that read alike are equal. -/

namespace Sys2Proof.Machine

theorem Memory.wf_nil : Memory.wf [] = true := rfl

/-- The canonical form of a listed byte followed by the rest. -/
theorem Memory.wf_cons {k : Nat} {v : Byte} {rest : Memory} :
    Memory.wf ((k, v) :: rest) = true ↔ (∀ x ∈ rest, k < x.1) ∧ v ≠ 0 ∧ Memory.wf rest = true := by
  simp only [Memory.wf, List.pairwise_cons, List.all_cons, Bool.and_eq_true, decide_eq_true_eq,
    bne_iff_ne]
  tauto

/-- An address below every listed one reads 0. -/
theorem Memory.read_of_lt {m : Memory} {a : Nat} (h : ∀ x ∈ m, a < x.1) : Memory.read m a = 0 := by
  induction m with
  | nil => rfl
  | cons x rest ih =>
    obtain ⟨k, v⟩ := x
    have hk : a < k := h (k, v) (by simp)
    simp only [Memory.read, if_neg (show ¬k = a by omega)]
    exact ih fun y hy => h y (List.mem_cons_of_mem _ hy)

/-- Every address listed after a write was listed before or is the one written. -/
theorem Memory.mem_write {m : Memory} {a : Nat} {b : Byte} {x : Host.Cell}
    (h : x ∈ Memory.write m a b) : x.1 = a ∨ x ∈ m := by
  induction m with
  | nil =>
    simp only [Memory.write] at h
    split at h <;> simp_all
  | cons y rest ih =>
    obtain ⟨k, v⟩ := y
    simp only [Memory.write] at h
    split_ifs at h
    · exact .inr h
    · rcases List.mem_cons.mp h with rfl | h
      · exact .inl rfl
      · exact .inr h
    · exact .inr (List.mem_cons_of_mem _ h)
    · rcases List.mem_cons.mp h with rfl | h
      · exact .inl rfl
      · exact .inr (List.mem_cons_of_mem _ h)
    · rcases List.mem_cons.mp h with rfl | h
      · exact .inr (by simp)
      · exact (ih h).imp id (List.mem_cons_of_mem _)

/-- A write keeps the canonical form. -/
theorem Memory.wf_write {m : Memory} (h : Memory.wf m = true) (a : Nat) (b : Byte) :
    Memory.wf (Memory.write m a b) = true := by
  induction m with
  | nil =>
    simp only [Memory.write]
    split_ifs with hb
    · rfl
    · exact Memory.wf_cons.mpr ⟨by simp, hb, rfl⟩
  | cons y rest ih =>
    obtain ⟨k, v⟩ := y
    have hr := Memory.wf_cons.mp h
    simp only [Memory.write]
    split_ifs with h1 hb h2 hb
    · exact h
    · refine Memory.wf_cons.mpr ⟨fun x hx => ?_, hb, h⟩
      rcases List.mem_cons.mp hx with rfl | hx
      · exact h1
      · exact h1.trans (hr.1 x hx)
    · exact hr.2.2
    · exact Memory.wf_cons.mpr ⟨h2 ▸ hr.1, hb, hr.2.2⟩
    · refine Memory.wf_cons.mpr ⟨fun x hx => ?_, hr.2.1, ih hr.2.2⟩
      rcases Memory.mem_write hx with hx | hx
      · omega
      · exact hr.1 x hx

/-- A read after a write at the same address. -/
theorem Memory.read_write_same {m : Memory} (h : Memory.wf m = true) (a : Nat) (b : Byte) :
    Memory.read (Memory.write m a b) a = b := by
  induction m with
  | nil => simp only [Memory.write]; split_ifs with hb <;> simp [Memory.read, hb]
  | cons y rest ih =>
    obtain ⟨k, v⟩ := y
    have hr := Memory.wf_cons.mp h
    simp only [Memory.write]
    split_ifs with h1 hb h2 hb
    · rw [hb]
      refine Memory.read_of_lt fun x hx => ?_
      rcases List.mem_cons.mp hx with rfl | hx
      · exact h1
      · exact h1.trans (hr.1 x hx)
    · simp [Memory.read]
    · rw [hb]; exact Memory.read_of_lt (h2 ▸ hr.1)
    · simp [Memory.read]
    · simp only [Memory.read, if_neg (show ¬k = a from fun e => h2 e.symm)]
      exact ih hr.2.2

/-- A write leaves every other address alone. -/
theorem Memory.read_write_other (m : Memory) {a x : Nat} (b : Byte) (h : x ≠ a) :
    Memory.read (Memory.write m a b) x = Memory.read m x := by
  induction m with
  | nil => simp only [Memory.write]; split_ifs <;> simp [Memory.read, h.symm]
  | cons y rest ih =>
    obtain ⟨k, v⟩ := y
    simp only [Memory.write]
    split_ifs with h1 hb h2 hb
    · rfl
    · simp [Memory.read, h.symm]
    · subst h2; simp [Memory.read, h.symm]
    · subst h2; simp [Memory.read, h.symm]
    · simp only [Memory.read, ih]

/-- Read after write, at any address of a canonical memory. -/
theorem Memory.read_write {m : Memory} (h : Memory.wf m = true) (a x : Nat) (b : Byte) :
    Memory.read (Memory.write m a b) x = if x = a then b else Memory.read m x := by
  split_ifs with hx
  · exact hx ▸ Memory.read_write_same h a b
  · exact Memory.read_write_other m b hx

theorem Memory.le_of_mem_ofBytesFrom {l : List Byte} {k : Nat} {x : Host.Cell}
    (h : x ∈ Memory.ofBytesFrom k l) : k ≤ x.1 ∧ x.1 < k + l.length := by
  induction l generalizing k with
  | nil => simp [Memory.ofBytesFrom] at h
  | cons b rest ih =>
    simp only [Memory.ofBytesFrom] at h
    simp only [List.length_cons]
    split_ifs at h
    · have := ih h; omega
    · rcases List.mem_cons.mp h with rfl | h
      · simp
      · have := ih h; omega

/-- A memory made of a byte string is in canonical form. -/
theorem Memory.wf_ofBytesFrom (k : Nat) (l : List Byte) :
    Memory.wf (Memory.ofBytesFrom k l) = true := by
  induction l generalizing k with
  | nil => rfl
  | cons b rest ih =>
    simp only [Memory.ofBytesFrom]
    split_ifs with hb
    · exact ih (k + 1)
    · exact Memory.wf_cons.mpr ⟨fun x hx => (Memory.le_of_mem_ofBytesFrom hx).1, hb, ih (k + 1)⟩

@[simp] theorem Memory.wf_ofBytes (l : List Byte) : Memory.wf (Memory.ofBytes l) = true :=
  Memory.wf_ofBytesFrom 0 l

theorem Memory.read_ofBytesFrom (k : Nat) (l : List Byte) (i : Nat) :
    Memory.read (Memory.ofBytesFrom k l) (k + i) = l.getD i 0 := by
  induction l generalizing k i with
  | nil => rfl
  | cons b rest ih =>
    simp only [Memory.ofBytesFrom]
    cases i with
    | zero =>
      split_ifs with hb
      · simpa [hb] using Memory.read_of_lt fun x hx => (Memory.le_of_mem_ofBytesFrom hx).1
      · simp [Memory.read]
    | succ i =>
      have e : k + (i + 1) = k + 1 + i := by omega
      split_ifs with hb
      · simpa [e] using ih (k + 1) i
      · simpa [e, Memory.read, show ¬k = k + 1 + i by omega] using ih (k + 1) i

/-- Byte `i` of a byte string is at address `i`, and 0 above its end. -/
@[simp] theorem Memory.read_ofBytes (l : List Byte) (i : Nat) :
    Memory.read (Memory.ofBytes l) i = l[i]?.getD 0 := by
  rw [← List.getD_eq_getElem?_getD, ← Memory.read_ofBytesFrom 0 l i, Nat.zero_add, Memory.ofBytes]

/-- Two memories in canonical form that read alike everywhere are the same data. -/
theorem Memory.ext_of_read {m n : Memory} (hm : Memory.wf m = true) (hn : Memory.wf n = true)
    (h : ∀ a, Memory.read m a = Memory.read n a) : m = n := by
  induction m generalizing n with
  | nil =>
    cases n with
    | nil => rfl
    | cons y rest =>
      have := h y.1
      have hv := (Memory.wf_cons.mp hn).2.1
      simp [Memory.read] at this
      exact absurd this.symm hv
  | cons x rest ih =>
    obtain ⟨k, v⟩ := x
    have hx := Memory.wf_cons.mp hm
    cases n with
    | nil =>
      have := h k
      simp [Memory.read] at this
      exact absurd this hx.2.1
    | cons y rest' =>
      obtain ⟨k', v'⟩ := y
      have hy := Memory.wf_cons.mp hn
      have hkk : k = k' := by
        rcases Nat.lt_trichotomy k k' with hlt | heq | hlt
        · have := h k
          rw [Memory.read_of_lt (m := (k', v') :: rest')] at this
          · simp [Memory.read] at this; exact absurd this hx.2.1
          · intro z hz
            rcases List.mem_cons.mp hz with rfl | hz
            · exact hlt
            · exact hlt.trans (hy.1 z hz)
        · exact heq
        · have := h k'
          rw [Memory.read_of_lt (m := (k, v) :: rest)] at this
          · simp [Memory.read] at this; exact absurd this.symm hy.2.1
          · intro z hz
            rcases List.mem_cons.mp hz with rfl | hz
            · exact hlt
            · exact hlt.trans (hx.1 z hz)
      subst hkk
      have hv : v = v' := by simpa [Memory.read] using h k
      subst hv
      refine congrArg _ (ih hx.2.2 hy.2.2 fun a => ?_)
      by_cases ha : k = a
      · subst ha
        rw [Memory.read_of_lt hx.1, Memory.read_of_lt hy.1]
      · simpa [Memory.read, ha] using h a

end Sys2Proof.Machine
end

