-- ==== Sys2Proof/Laws/State.lean ====
section
/-! SUPPORT. The small lemmas of the state: for every update of an engine, what each field is
afterwards; for every update of the machine, the same. All of them hold by computation. -/

namespace Sys2Proof.Machine

variable (e : Engine)

/-! `Engine.raise` -/

@[simp] theorem Engine.raise_configured (r : ErrCode) : (e.raise r).configured = e.configured := rfl
@[simp] theorem Engine.raise_cfgWindow (r : ErrCode) : (e.raise r).cfgWindow = e.cfgWindow := rfl
@[simp] theorem Engine.raise_cfgMin (r : ErrCode) : (e.raise r).cfgMin = e.cfgMin := rfl
@[simp] theorem Engine.raise_cfgAvg (r : ErrCode) : (e.raise r).cfgAvg = e.cfgAvg := rfl
@[simp] theorem Engine.raise_cfgMax (r : ErrCode) : (e.raise r).cfgMax = e.cfgMax := rfl
@[simp] theorem Engine.raise_cfgFlags (r : ErrCode) : (e.raise r).cfgFlags = e.cfgFlags := rfl
@[simp] theorem Engine.raise_actWindow (r : ErrCode) : (e.raise r).actWindow = e.actWindow := rfl
@[simp] theorem Engine.raise_actMin (r : ErrCode) : (e.raise r).actMin = e.actMin := rfl
@[simp] theorem Engine.raise_actAvg (r : ErrCode) : (e.raise r).actAvg = e.actAvg := rfl
@[simp] theorem Engine.raise_actMax (r : ErrCode) : (e.raise r).actMax = e.actMax := rfl
@[simp] theorem Engine.raise_actFlags (r : ErrCode) : (e.raise r).actFlags = e.actFlags := rfl
@[simp] theorem Engine.raise_shift (r : ErrCode) : (e.raise r).shift = e.shift := rfl
@[simp] theorem Engine.raise_drop (r : ErrCode) : (e.raise r).drop = e.drop := rfl
@[simp] theorem Engine.raise_hash (r : ErrCode) : (e.raise r).hash = e.hash := rfl
@[simp] theorem Engine.raise_win (r : ErrCode) : (e.raise r).win = e.win := rfl
@[simp] theorem Engine.raise_cursor (r : ErrCode) : (e.raise r).cursor = e.cursor := rfl
@[simp] theorem Engine.raise_chunkSize (r : ErrCode) : (e.raise r).chunkSize = e.chunkSize := rfl
@[simp] theorem Engine.raise_zipCnt (r : ErrCode) : (e.raise r).zipCnt = e.zipCnt := rfl
@[simp] theorem Engine.raise_cacc (r : ErrCode) : (e.raise r).cacc = e.cacc := rfl
@[simp] theorem Engine.raise_total (r : ErrCode) : (e.raise r).total = e.total := rfl
@[simp] theorem Engine.raise_sacc (r : ErrCode) : (e.raise r).sacc = e.sacc := rfl
@[simp] theorem Engine.raise_q (r : ErrCode) : (e.raise r).q = e.q := rfl
@[simp] theorem Engine.raise_outValid (r : ErrCode) : (e.raise r).outValid = e.outValid := rfl
@[simp] theorem Engine.raise_outSize (r : ErrCode) : (e.raise r).outSize = e.outSize := rfl
@[simp] theorem Engine.raise_outDigest (r : ErrCode) : (e.raise r).outDigest = e.outDigest := rfl
@[simp] theorem Engine.raise_statsValid (r : ErrCode) : (e.raise r).statsValid = e.statsValid := rfl
@[simp] theorem Engine.raise_statsSize (r : ErrCode) : (e.raise r).statsSize = e.statsSize := rfl
@[simp] theorem Engine.raise_statsDigest (r : ErrCode) :
    (e.raise r).statsDigest = e.statsDigest := rfl
@[simp] theorem Engine.raise_err (r : ErrCode) : (e.raise r).err = r := rfl
@[simp] theorem Engine.raise_fault (r : ErrCode) : (e.raise r).fault = (e.fault || r.fatal) := rfl

/-! `Engine.account` -/

@[simp] theorem Engine.account_configured (b : Byte) :
    (e.account b).configured = e.configured := rfl
@[simp] theorem Engine.account_cfgWindow (b : Byte) : (e.account b).cfgWindow = e.cfgWindow := rfl
@[simp] theorem Engine.account_cfgMin (b : Byte) : (e.account b).cfgMin = e.cfgMin := rfl
@[simp] theorem Engine.account_cfgAvg (b : Byte) : (e.account b).cfgAvg = e.cfgAvg := rfl
@[simp] theorem Engine.account_cfgMax (b : Byte) : (e.account b).cfgMax = e.cfgMax := rfl
@[simp] theorem Engine.account_cfgFlags (b : Byte) : (e.account b).cfgFlags = e.cfgFlags := rfl
@[simp] theorem Engine.account_actWindow (b : Byte) : (e.account b).actWindow = e.actWindow := rfl
@[simp] theorem Engine.account_actMin (b : Byte) : (e.account b).actMin = e.actMin := rfl
@[simp] theorem Engine.account_actAvg (b : Byte) : (e.account b).actAvg = e.actAvg := rfl
@[simp] theorem Engine.account_actMax (b : Byte) : (e.account b).actMax = e.actMax := rfl
@[simp] theorem Engine.account_actFlags (b : Byte) : (e.account b).actFlags = e.actFlags := rfl
@[simp] theorem Engine.account_shift (b : Byte) : (e.account b).shift = e.shift := rfl
@[simp] theorem Engine.account_drop (b : Byte) : (e.account b).drop = e.drop := rfl
@[simp] theorem Engine.account_hash (b : Byte) : (e.account b).hash = e.hash := rfl
@[simp] theorem Engine.account_win (b : Byte) : (e.account b).win = e.win := rfl
@[simp] theorem Engine.account_cursor (b : Byte) : (e.account b).cursor = e.cursor := rfl
@[simp] theorem Engine.account_chunkSize (b : Byte) : (e.account b).chunkSize = e.chunkSize := rfl
@[simp] theorem Engine.account_zipCnt (b : Byte) : (e.account b).zipCnt = e.zipCnt := rfl
@[simp] theorem Engine.account_cacc (b : Byte) : (e.account b).cacc = e.cacc ++ [b] := rfl
@[simp] theorem Engine.account_total (b : Byte) : (e.account b).total = e.total + 1 := rfl
@[simp] theorem Engine.account_sacc (b : Byte) : (e.account b).sacc = e.sacc ++ [b] := rfl
@[simp] theorem Engine.account_q (b : Byte) : (e.account b).q = e.q := rfl
@[simp] theorem Engine.account_outValid (b : Byte) : (e.account b).outValid = e.outValid := rfl
@[simp] theorem Engine.account_outSize (b : Byte) : (e.account b).outSize = e.outSize := rfl
@[simp] theorem Engine.account_outDigest (b : Byte) : (e.account b).outDigest = e.outDigest := rfl
@[simp] theorem Engine.account_statsValid (b : Byte) :
    (e.account b).statsValid = e.statsValid := rfl
@[simp] theorem Engine.account_statsSize (b : Byte) : (e.account b).statsSize = e.statsSize := rfl
@[simp] theorem Engine.account_statsDigest (b : Byte) :
    (e.account b).statsDigest = e.statsDigest := rfl
@[simp] theorem Engine.account_err (b : Byte) : (e.account b).err = e.err := rfl
@[simp] theorem Engine.account_fault (b : Byte) : (e.account b).fault = e.fault := rfl

/-! `Engine.zipStep` -/

@[simp] theorem Engine.zipStep_configured (c : Config) (b : Byte) :
    (e.zipStep c b).configured = e.configured := rfl
@[simp] theorem Engine.zipStep_cfgWindow (c : Config) (b : Byte) :
    (e.zipStep c b).cfgWindow = e.cfgWindow := rfl
@[simp] theorem Engine.zipStep_cfgMin (c : Config) (b : Byte) :
    (e.zipStep c b).cfgMin = e.cfgMin := rfl
@[simp] theorem Engine.zipStep_cfgAvg (c : Config) (b : Byte) :
    (e.zipStep c b).cfgAvg = e.cfgAvg := rfl
@[simp] theorem Engine.zipStep_cfgMax (c : Config) (b : Byte) :
    (e.zipStep c b).cfgMax = e.cfgMax := rfl
@[simp] theorem Engine.zipStep_cfgFlags (c : Config) (b : Byte) :
    (e.zipStep c b).cfgFlags = e.cfgFlags := rfl
@[simp] theorem Engine.zipStep_actWindow (c : Config) (b : Byte) :
    (e.zipStep c b).actWindow = e.actWindow := rfl
@[simp] theorem Engine.zipStep_actMin (c : Config) (b : Byte) :
    (e.zipStep c b).actMin = e.actMin := rfl
@[simp] theorem Engine.zipStep_actAvg (c : Config) (b : Byte) :
    (e.zipStep c b).actAvg = e.actAvg := rfl
@[simp] theorem Engine.zipStep_actMax (c : Config) (b : Byte) :
    (e.zipStep c b).actMax = e.actMax := rfl
@[simp] theorem Engine.zipStep_actFlags (c : Config) (b : Byte) :
    (e.zipStep c b).actFlags = e.actFlags := rfl
@[simp] theorem Engine.zipStep_shift (c : Config) (b : Byte) :
    (e.zipStep c b).shift = e.shift := rfl
@[simp] theorem Engine.zipStep_drop (c : Config) (b : Byte) : (e.zipStep c b).drop = e.drop := rfl
@[simp] theorem Engine.zipStep_hash (c : Config) (b : Byte) : (e.zipStep c b).hash = e.hash := rfl
@[simp] theorem Engine.zipStep_win (c : Config) (b : Byte) : (e.zipStep c b).win = e.win := rfl
@[simp] theorem Engine.zipStep_cursor (c : Config) (b : Byte) :
    (e.zipStep c b).cursor = e.cursor := rfl
@[simp] theorem Engine.zipStep_chunkSize (c : Config) (b : Byte) :
    (e.zipStep c b).chunkSize = e.chunkSize := rfl
@[simp] theorem Engine.zipStep_zipCnt (c : Config) (b : Byte) :
    (e.zipStep c b).zipCnt = zipAdvance c e.optZip e.zipCnt b := rfl
@[simp] theorem Engine.zipStep_cacc (c : Config) (b : Byte) : (e.zipStep c b).cacc = e.cacc := rfl
@[simp] theorem Engine.zipStep_total (c : Config) (b : Byte) :
    (e.zipStep c b).total = e.total := rfl
@[simp] theorem Engine.zipStep_sacc (c : Config) (b : Byte) : (e.zipStep c b).sacc = e.sacc := rfl
@[simp] theorem Engine.zipStep_q (c : Config) (b : Byte) : (e.zipStep c b).q = e.q := rfl
@[simp] theorem Engine.zipStep_outValid (c : Config) (b : Byte) :
    (e.zipStep c b).outValid = e.outValid := rfl
@[simp] theorem Engine.zipStep_outSize (c : Config) (b : Byte) :
    (e.zipStep c b).outSize = e.outSize := rfl
@[simp] theorem Engine.zipStep_outDigest (c : Config) (b : Byte) :
    (e.zipStep c b).outDigest = e.outDigest := rfl
@[simp] theorem Engine.zipStep_statsValid (c : Config) (b : Byte) :
    (e.zipStep c b).statsValid = e.statsValid := rfl
@[simp] theorem Engine.zipStep_statsSize (c : Config) (b : Byte) :
    (e.zipStep c b).statsSize = e.statsSize := rfl
@[simp] theorem Engine.zipStep_statsDigest (c : Config) (b : Byte) :
    (e.zipStep c b).statsDigest = e.statsDigest := rfl
@[simp] theorem Engine.zipStep_err (c : Config) (b : Byte) : (e.zipStep c b).err = e.err := rfl
@[simp] theorem Engine.zipStep_fault (c : Config) (b : Byte) :
    (e.zipStep c b).fault = e.fault := rfl

/-! `Engine.countByte` -/

@[simp] theorem Engine.countByte_configured : e.countByte.configured = e.configured := rfl
@[simp] theorem Engine.countByte_cfgWindow : e.countByte.cfgWindow = e.cfgWindow := rfl
@[simp] theorem Engine.countByte_cfgMin : e.countByte.cfgMin = e.cfgMin := rfl
@[simp] theorem Engine.countByte_cfgAvg : e.countByte.cfgAvg = e.cfgAvg := rfl
@[simp] theorem Engine.countByte_cfgMax : e.countByte.cfgMax = e.cfgMax := rfl
@[simp] theorem Engine.countByte_cfgFlags : e.countByte.cfgFlags = e.cfgFlags := rfl
@[simp] theorem Engine.countByte_actWindow : e.countByte.actWindow = e.actWindow := rfl
@[simp] theorem Engine.countByte_actMin : e.countByte.actMin = e.actMin := rfl
@[simp] theorem Engine.countByte_actAvg : e.countByte.actAvg = e.actAvg := rfl
@[simp] theorem Engine.countByte_actMax : e.countByte.actMax = e.actMax := rfl
@[simp] theorem Engine.countByte_actFlags : e.countByte.actFlags = e.actFlags := rfl
@[simp] theorem Engine.countByte_shift : e.countByte.shift = e.shift := rfl
@[simp] theorem Engine.countByte_drop : e.countByte.drop = e.drop := rfl
@[simp] theorem Engine.countByte_hash : e.countByte.hash = e.hash := rfl
@[simp] theorem Engine.countByte_win : e.countByte.win = e.win := rfl
@[simp] theorem Engine.countByte_cursor : e.countByte.cursor = e.cursor := rfl
@[simp] theorem Engine.countByte_chunkSize : e.countByte.chunkSize = e.chunkSize + 1 := rfl
@[simp] theorem Engine.countByte_zipCnt : e.countByte.zipCnt = e.zipCnt := rfl
@[simp] theorem Engine.countByte_cacc : e.countByte.cacc = e.cacc := rfl
@[simp] theorem Engine.countByte_total : e.countByte.total = e.total := rfl
@[simp] theorem Engine.countByte_sacc : e.countByte.sacc = e.sacc := rfl
@[simp] theorem Engine.countByte_q : e.countByte.q = e.q := rfl
@[simp] theorem Engine.countByte_outValid : e.countByte.outValid = e.outValid := rfl
@[simp] theorem Engine.countByte_outSize : e.countByte.outSize = e.outSize := rfl
@[simp] theorem Engine.countByte_outDigest : e.countByte.outDigest = e.outDigest := rfl
@[simp] theorem Engine.countByte_statsValid : e.countByte.statsValid = e.statsValid := rfl
@[simp] theorem Engine.countByte_statsSize : e.countByte.statsSize = e.statsSize := rfl
@[simp] theorem Engine.countByte_statsDigest : e.countByte.statsDigest = e.statsDigest := rfl
@[simp] theorem Engine.countByte_err : e.countByte.err = e.err := rfl
@[simp] theorem Engine.countByte_fault : e.countByte.fault = e.fault := rfl

/-! `Engine.roll` -/

@[simp] theorem Engine.roll_configured (b : Byte) : (e.roll b).configured = e.configured := rfl
@[simp] theorem Engine.roll_cfgWindow (b : Byte) : (e.roll b).cfgWindow = e.cfgWindow := rfl
@[simp] theorem Engine.roll_cfgMin (b : Byte) : (e.roll b).cfgMin = e.cfgMin := rfl
@[simp] theorem Engine.roll_cfgAvg (b : Byte) : (e.roll b).cfgAvg = e.cfgAvg := rfl
@[simp] theorem Engine.roll_cfgMax (b : Byte) : (e.roll b).cfgMax = e.cfgMax := rfl
@[simp] theorem Engine.roll_cfgFlags (b : Byte) : (e.roll b).cfgFlags = e.cfgFlags := rfl
@[simp] theorem Engine.roll_actWindow (b : Byte) : (e.roll b).actWindow = e.actWindow := rfl
@[simp] theorem Engine.roll_actMin (b : Byte) : (e.roll b).actMin = e.actMin := rfl
@[simp] theorem Engine.roll_actAvg (b : Byte) : (e.roll b).actAvg = e.actAvg := rfl
@[simp] theorem Engine.roll_actMax (b : Byte) : (e.roll b).actMax = e.actMax := rfl
@[simp] theorem Engine.roll_actFlags (b : Byte) : (e.roll b).actFlags = e.actFlags := rfl
@[simp] theorem Engine.roll_shift (b : Byte) : (e.roll b).shift = e.shift := rfl
@[simp] theorem Engine.roll_drop (b : Byte) : (e.roll b).drop = e.drop := rfl
@[simp] theorem Engine.roll_hash (b : Byte) :
    (e.roll b).hash = (e.hash <<< 8) ^^^ b.toWord ^^^ Table.entry e.drop (Memory.read e.win e.cursor.toNat) ^^^
      Table.entry e.shift (e.hash.extractLsb' 55 8) := rfl
@[simp] theorem Engine.roll_win (b : Byte) :
    (e.roll b).win = Memory.write e.win e.cursor.toNat b := rfl
@[simp] theorem Engine.roll_cursor (b : Byte) :
    (e.roll b).cursor = (e.cursor + 1) % e.actWindow := rfl
@[simp] theorem Engine.roll_chunkSize (b : Byte) : (e.roll b).chunkSize = e.chunkSize := rfl
@[simp] theorem Engine.roll_zipCnt (b : Byte) : (e.roll b).zipCnt = e.zipCnt := rfl
@[simp] theorem Engine.roll_cacc (b : Byte) : (e.roll b).cacc = e.cacc := rfl
@[simp] theorem Engine.roll_total (b : Byte) : (e.roll b).total = e.total := rfl
@[simp] theorem Engine.roll_sacc (b : Byte) : (e.roll b).sacc = e.sacc := rfl
@[simp] theorem Engine.roll_q (b : Byte) : (e.roll b).q = e.q := rfl
@[simp] theorem Engine.roll_outValid (b : Byte) : (e.roll b).outValid = e.outValid := rfl
@[simp] theorem Engine.roll_outSize (b : Byte) : (e.roll b).outSize = e.outSize := rfl
@[simp] theorem Engine.roll_outDigest (b : Byte) : (e.roll b).outDigest = e.outDigest := rfl
@[simp] theorem Engine.roll_statsValid (b : Byte) : (e.roll b).statsValid = e.statsValid := rfl
@[simp] theorem Engine.roll_statsSize (b : Byte) : (e.roll b).statsSize = e.statsSize := rfl
@[simp] theorem Engine.roll_statsDigest (b : Byte) : (e.roll b).statsDigest = e.statsDigest := rfl
@[simp] theorem Engine.roll_err (b : Byte) : (e.roll b).err = e.err := rfl
@[simp] theorem Engine.roll_fault (b : Byte) : (e.roll b).fault = e.fault := rfl

/-! `Engine.hashReset` -/

@[simp] theorem Engine.hashReset_configured : e.hashReset.configured = e.configured := rfl
@[simp] theorem Engine.hashReset_cfgWindow : e.hashReset.cfgWindow = e.cfgWindow := rfl
@[simp] theorem Engine.hashReset_cfgMin : e.hashReset.cfgMin = e.cfgMin := rfl
@[simp] theorem Engine.hashReset_cfgAvg : e.hashReset.cfgAvg = e.cfgAvg := rfl
@[simp] theorem Engine.hashReset_cfgMax : e.hashReset.cfgMax = e.cfgMax := rfl
@[simp] theorem Engine.hashReset_cfgFlags : e.hashReset.cfgFlags = e.cfgFlags := rfl
@[simp] theorem Engine.hashReset_actWindow : e.hashReset.actWindow = e.actWindow := rfl
@[simp] theorem Engine.hashReset_actMin : e.hashReset.actMin = e.actMin := rfl
@[simp] theorem Engine.hashReset_actAvg : e.hashReset.actAvg = e.actAvg := rfl
@[simp] theorem Engine.hashReset_actMax : e.hashReset.actMax = e.actMax := rfl
@[simp] theorem Engine.hashReset_actFlags : e.hashReset.actFlags = e.actFlags := rfl
@[simp] theorem Engine.hashReset_shift : e.hashReset.shift = e.shift := rfl
@[simp] theorem Engine.hashReset_drop : e.hashReset.drop = e.drop := rfl
@[simp] theorem Engine.hashReset_hash : e.hashReset.hash = 0 := rfl
@[simp] theorem Engine.hashReset_win : e.hashReset.win = [] := rfl
@[simp] theorem Engine.hashReset_cursor : e.hashReset.cursor = e.cursor := rfl
@[simp] theorem Engine.hashReset_chunkSize : e.hashReset.chunkSize = e.chunkSize := rfl
@[simp] theorem Engine.hashReset_zipCnt : e.hashReset.zipCnt = e.zipCnt := rfl
@[simp] theorem Engine.hashReset_cacc : e.hashReset.cacc = e.cacc := rfl
@[simp] theorem Engine.hashReset_total : e.hashReset.total = e.total := rfl
@[simp] theorem Engine.hashReset_sacc : e.hashReset.sacc = e.sacc := rfl
@[simp] theorem Engine.hashReset_q : e.hashReset.q = e.q := rfl
@[simp] theorem Engine.hashReset_outValid : e.hashReset.outValid = e.outValid := rfl
@[simp] theorem Engine.hashReset_outSize : e.hashReset.outSize = e.outSize := rfl
@[simp] theorem Engine.hashReset_outDigest : e.hashReset.outDigest = e.outDigest := rfl
@[simp] theorem Engine.hashReset_statsValid : e.hashReset.statsValid = e.statsValid := rfl
@[simp] theorem Engine.hashReset_statsSize : e.hashReset.statsSize = e.statsSize := rfl
@[simp] theorem Engine.hashReset_statsDigest : e.hashReset.statsDigest = e.statsDigest := rfl
@[simp] theorem Engine.hashReset_err : e.hashReset.err = e.err := rfl
@[simp] theorem Engine.hashReset_fault : e.hashReset.fault = e.fault := rfl

/-! `Engine.chunkLocalReset` -/

@[simp] theorem Engine.chunkLocalReset_configured :
    e.chunkLocalReset.configured = e.configured := rfl
@[simp] theorem Engine.chunkLocalReset_cfgWindow : e.chunkLocalReset.cfgWindow = e.cfgWindow := rfl
@[simp] theorem Engine.chunkLocalReset_cfgMin : e.chunkLocalReset.cfgMin = e.cfgMin := rfl
@[simp] theorem Engine.chunkLocalReset_cfgAvg : e.chunkLocalReset.cfgAvg = e.cfgAvg := rfl
@[simp] theorem Engine.chunkLocalReset_cfgMax : e.chunkLocalReset.cfgMax = e.cfgMax := rfl
@[simp] theorem Engine.chunkLocalReset_cfgFlags : e.chunkLocalReset.cfgFlags = e.cfgFlags := rfl
@[simp] theorem Engine.chunkLocalReset_actWindow : e.chunkLocalReset.actWindow = e.actWindow := rfl
@[simp] theorem Engine.chunkLocalReset_actMin : e.chunkLocalReset.actMin = e.actMin := rfl
@[simp] theorem Engine.chunkLocalReset_actAvg : e.chunkLocalReset.actAvg = e.actAvg := rfl
@[simp] theorem Engine.chunkLocalReset_actMax : e.chunkLocalReset.actMax = e.actMax := rfl
@[simp] theorem Engine.chunkLocalReset_actFlags : e.chunkLocalReset.actFlags = e.actFlags := rfl
@[simp] theorem Engine.chunkLocalReset_shift : e.chunkLocalReset.shift = e.shift := rfl
@[simp] theorem Engine.chunkLocalReset_drop : e.chunkLocalReset.drop = e.drop := rfl
@[simp] theorem Engine.chunkLocalReset_hash : e.chunkLocalReset.hash = 0 := rfl
@[simp] theorem Engine.chunkLocalReset_win : e.chunkLocalReset.win = [] := rfl
@[simp] theorem Engine.chunkLocalReset_cursor : e.chunkLocalReset.cursor = e.cursor := rfl
@[simp] theorem Engine.chunkLocalReset_chunkSize : e.chunkLocalReset.chunkSize = 0 := rfl
@[simp] theorem Engine.chunkLocalReset_zipCnt : e.chunkLocalReset.zipCnt = 0 := rfl
@[simp] theorem Engine.chunkLocalReset_cacc : e.chunkLocalReset.cacc = [] := rfl
@[simp] theorem Engine.chunkLocalReset_total : e.chunkLocalReset.total = e.total := rfl
@[simp] theorem Engine.chunkLocalReset_sacc : e.chunkLocalReset.sacc = e.sacc := rfl
@[simp] theorem Engine.chunkLocalReset_q : e.chunkLocalReset.q = e.q := rfl
@[simp] theorem Engine.chunkLocalReset_outValid : e.chunkLocalReset.outValid = e.outValid := rfl
@[simp] theorem Engine.chunkLocalReset_outSize : e.chunkLocalReset.outSize = e.outSize := rfl
@[simp] theorem Engine.chunkLocalReset_outDigest : e.chunkLocalReset.outDigest = e.outDigest := rfl
@[simp] theorem Engine.chunkLocalReset_statsValid :
    e.chunkLocalReset.statsValid = e.statsValid := rfl
@[simp] theorem Engine.chunkLocalReset_statsSize : e.chunkLocalReset.statsSize = e.statsSize := rfl
@[simp] theorem Engine.chunkLocalReset_statsDigest :
    e.chunkLocalReset.statsDigest = e.statsDigest := rfl
@[simp] theorem Engine.chunkLocalReset_err : e.chunkLocalReset.err = e.err := rfl
@[simp] theorem Engine.chunkLocalReset_fault : e.chunkLocalReset.fault = e.fault := rfl

/-! `Engine.pushChunk` -/

@[simp] theorem Engine.pushChunk_configured (c : Config) :
    (e.pushChunk c).configured = e.configured := rfl
@[simp] theorem Engine.pushChunk_cfgWindow (c : Config) :
    (e.pushChunk c).cfgWindow = e.cfgWindow := rfl
@[simp] theorem Engine.pushChunk_cfgMin (c : Config) : (e.pushChunk c).cfgMin = e.cfgMin := rfl
@[simp] theorem Engine.pushChunk_cfgAvg (c : Config) : (e.pushChunk c).cfgAvg = e.cfgAvg := rfl
@[simp] theorem Engine.pushChunk_cfgMax (c : Config) : (e.pushChunk c).cfgMax = e.cfgMax := rfl
@[simp] theorem Engine.pushChunk_cfgFlags (c : Config) :
    (e.pushChunk c).cfgFlags = e.cfgFlags := rfl
@[simp] theorem Engine.pushChunk_actWindow (c : Config) :
    (e.pushChunk c).actWindow = e.actWindow := rfl
@[simp] theorem Engine.pushChunk_actMin (c : Config) : (e.pushChunk c).actMin = e.actMin := rfl
@[simp] theorem Engine.pushChunk_actAvg (c : Config) : (e.pushChunk c).actAvg = e.actAvg := rfl
@[simp] theorem Engine.pushChunk_actMax (c : Config) : (e.pushChunk c).actMax = e.actMax := rfl
@[simp] theorem Engine.pushChunk_actFlags (c : Config) :
    (e.pushChunk c).actFlags = e.actFlags := rfl
@[simp] theorem Engine.pushChunk_shift (c : Config) : (e.pushChunk c).shift = e.shift := rfl
@[simp] theorem Engine.pushChunk_drop (c : Config) : (e.pushChunk c).drop = e.drop := rfl
@[simp] theorem Engine.pushChunk_hash (c : Config) : (e.pushChunk c).hash = 0 := rfl
@[simp] theorem Engine.pushChunk_win (c : Config) : (e.pushChunk c).win = [] := rfl
@[simp] theorem Engine.pushChunk_cursor (c : Config) : (e.pushChunk c).cursor = e.cursor := rfl
@[simp] theorem Engine.pushChunk_chunkSize (c : Config) : (e.pushChunk c).chunkSize = 0 := rfl
@[simp] theorem Engine.pushChunk_zipCnt (c : Config) : (e.pushChunk c).zipCnt = 0 := rfl
@[simp] theorem Engine.pushChunk_cacc (c : Config) : (e.pushChunk c).cacc = [] := rfl
@[simp] theorem Engine.pushChunk_total (c : Config) : (e.pushChunk c).total = e.total := rfl
@[simp] theorem Engine.pushChunk_sacc (c : Config) : (e.pushChunk c).sacc = e.sacc := rfl
@[simp] theorem Engine.pushChunk_q (c : Config) :
    (e.pushChunk c).q = e.q ++ [e.currentChunk c] := rfl
@[simp] theorem Engine.pushChunk_outValid (c : Config) :
    (e.pushChunk c).outValid = e.outValid := rfl
@[simp] theorem Engine.pushChunk_outSize (c : Config) : (e.pushChunk c).outSize = e.outSize := rfl
@[simp] theorem Engine.pushChunk_outDigest (c : Config) :
    (e.pushChunk c).outDigest = e.outDigest := rfl
@[simp] theorem Engine.pushChunk_statsValid (c : Config) :
    (e.pushChunk c).statsValid = e.statsValid := rfl
@[simp] theorem Engine.pushChunk_statsSize (c : Config) :
    (e.pushChunk c).statsSize = e.statsSize := rfl
@[simp] theorem Engine.pushChunk_statsDigest (c : Config) :
    (e.pushChunk c).statsDigest = e.statsDigest := rfl
@[simp] theorem Engine.pushChunk_err (c : Config) : (e.pushChunk c).err = e.err := rfl
@[simp] theorem Engine.pushChunk_fault (c : Config) : (e.pushChunk c).fault = e.fault := rfl

/-! `Engine.latchOptions` -/

@[simp] theorem Engine.latchOptions_configured : e.latchOptions.configured = e.configured := rfl
@[simp] theorem Engine.latchOptions_cfgWindow : e.latchOptions.cfgWindow = e.cfgWindow := rfl
@[simp] theorem Engine.latchOptions_cfgMin : e.latchOptions.cfgMin = e.cfgMin := rfl
@[simp] theorem Engine.latchOptions_cfgAvg : e.latchOptions.cfgAvg = e.cfgAvg := rfl
@[simp] theorem Engine.latchOptions_cfgMax : e.latchOptions.cfgMax = e.cfgMax := rfl
@[simp] theorem Engine.latchOptions_cfgFlags : e.latchOptions.cfgFlags = e.cfgFlags := rfl
@[simp] theorem Engine.latchOptions_actWindow : e.latchOptions.actWindow = e.cfgWindow := rfl
@[simp] theorem Engine.latchOptions_actMin : e.latchOptions.actMin = e.cfgMin := rfl
@[simp] theorem Engine.latchOptions_actAvg : e.latchOptions.actAvg = e.cfgAvg := rfl
@[simp] theorem Engine.latchOptions_actMax : e.latchOptions.actMax = e.cfgMax := rfl
@[simp] theorem Engine.latchOptions_actFlags : e.latchOptions.actFlags = e.cfgFlags &&& 1 := rfl
@[simp] theorem Engine.latchOptions_shift : e.latchOptions.shift = e.shift := rfl
@[simp] theorem Engine.latchOptions_drop : e.latchOptions.drop = e.drop := rfl
@[simp] theorem Engine.latchOptions_hash : e.latchOptions.hash = e.hash := rfl
@[simp] theorem Engine.latchOptions_win : e.latchOptions.win = e.win := rfl
@[simp] theorem Engine.latchOptions_cursor : e.latchOptions.cursor = e.cursor := rfl
@[simp] theorem Engine.latchOptions_chunkSize : e.latchOptions.chunkSize = e.chunkSize := rfl
@[simp] theorem Engine.latchOptions_zipCnt : e.latchOptions.zipCnt = e.zipCnt := rfl
@[simp] theorem Engine.latchOptions_cacc : e.latchOptions.cacc = e.cacc := rfl
@[simp] theorem Engine.latchOptions_total : e.latchOptions.total = e.total := rfl
@[simp] theorem Engine.latchOptions_sacc : e.latchOptions.sacc = e.sacc := rfl
@[simp] theorem Engine.latchOptions_q : e.latchOptions.q = e.q := rfl
@[simp] theorem Engine.latchOptions_outValid : e.latchOptions.outValid = e.outValid := rfl
@[simp] theorem Engine.latchOptions_outSize : e.latchOptions.outSize = e.outSize := rfl
@[simp] theorem Engine.latchOptions_outDigest : e.latchOptions.outDigest = e.outDigest := rfl
@[simp] theorem Engine.latchOptions_statsValid : e.latchOptions.statsValid = e.statsValid := rfl
@[simp] theorem Engine.latchOptions_statsSize : e.latchOptions.statsSize = e.statsSize := rfl
@[simp] theorem Engine.latchOptions_statsDigest : e.latchOptions.statsDigest = e.statsDigest := rfl
@[simp] theorem Engine.latchOptions_err : e.latchOptions.err = e.err := rfl
@[simp] theorem Engine.latchOptions_fault : e.latchOptions.fault = e.fault := rfl

/-! `Engine.buildTables` -/

@[simp] theorem Engine.buildTables_configured (c : Config) (w : Nat) :
    (e.buildTables c w).configured = e.configured := rfl
@[simp] theorem Engine.buildTables_cfgWindow (c : Config) (w : Nat) :
    (e.buildTables c w).cfgWindow = e.cfgWindow := rfl
@[simp] theorem Engine.buildTables_cfgMin (c : Config) (w : Nat) :
    (e.buildTables c w).cfgMin = e.cfgMin := rfl
@[simp] theorem Engine.buildTables_cfgAvg (c : Config) (w : Nat) :
    (e.buildTables c w).cfgAvg = e.cfgAvg := rfl
@[simp] theorem Engine.buildTables_cfgMax (c : Config) (w : Nat) :
    (e.buildTables c w).cfgMax = e.cfgMax := rfl
@[simp] theorem Engine.buildTables_cfgFlags (c : Config) (w : Nat) :
    (e.buildTables c w).cfgFlags = e.cfgFlags := rfl
@[simp] theorem Engine.buildTables_actWindow (c : Config) (w : Nat) :
    (e.buildTables c w).actWindow = e.actWindow := rfl
@[simp] theorem Engine.buildTables_actMin (c : Config) (w : Nat) :
    (e.buildTables c w).actMin = e.actMin := rfl
@[simp] theorem Engine.buildTables_actAvg (c : Config) (w : Nat) :
    (e.buildTables c w).actAvg = e.actAvg := rfl
@[simp] theorem Engine.buildTables_actMax (c : Config) (w : Nat) :
    (e.buildTables c w).actMax = e.actMax := rfl
@[simp] theorem Engine.buildTables_actFlags (c : Config) (w : Nat) :
    (e.buildTables c w).actFlags = e.actFlags := rfl
@[simp] theorem Engine.buildTables_shift (c : Config) (w : Nat) :
    (e.buildTables c w).shift = shiftTable c := rfl
@[simp] theorem Engine.buildTables_drop (c : Config) (w : Nat) :
    (e.buildTables c w).drop = dropTable c w := rfl
@[simp] theorem Engine.buildTables_hash (c : Config) (w : Nat) :
    (e.buildTables c w).hash = e.hash := rfl
@[simp] theorem Engine.buildTables_win (c : Config) (w : Nat) :
    (e.buildTables c w).win = e.win := rfl
@[simp] theorem Engine.buildTables_cursor (c : Config) (w : Nat) :
    (e.buildTables c w).cursor = e.cursor := rfl
@[simp] theorem Engine.buildTables_chunkSize (c : Config) (w : Nat) :
    (e.buildTables c w).chunkSize = e.chunkSize := rfl
@[simp] theorem Engine.buildTables_zipCnt (c : Config) (w : Nat) :
    (e.buildTables c w).zipCnt = e.zipCnt := rfl
@[simp] theorem Engine.buildTables_cacc (c : Config) (w : Nat) :
    (e.buildTables c w).cacc = e.cacc := rfl
@[simp] theorem Engine.buildTables_total (c : Config) (w : Nat) :
    (e.buildTables c w).total = e.total := rfl
@[simp] theorem Engine.buildTables_sacc (c : Config) (w : Nat) :
    (e.buildTables c w).sacc = e.sacc := rfl
@[simp] theorem Engine.buildTables_q (c : Config) (w : Nat) : (e.buildTables c w).q = e.q := rfl
@[simp] theorem Engine.buildTables_outValid (c : Config) (w : Nat) :
    (e.buildTables c w).outValid = e.outValid := rfl
@[simp] theorem Engine.buildTables_outSize (c : Config) (w : Nat) :
    (e.buildTables c w).outSize = e.outSize := rfl
@[simp] theorem Engine.buildTables_outDigest (c : Config) (w : Nat) :
    (e.buildTables c w).outDigest = e.outDigest := rfl
@[simp] theorem Engine.buildTables_statsValid (c : Config) (w : Nat) :
    (e.buildTables c w).statsValid = e.statsValid := rfl
@[simp] theorem Engine.buildTables_statsSize (c : Config) (w : Nat) :
    (e.buildTables c w).statsSize = e.statsSize := rfl
@[simp] theorem Engine.buildTables_statsDigest (c : Config) (w : Nat) :
    (e.buildTables c w).statsDigest = e.statsDigest := rfl
@[simp] theorem Engine.buildTables_err (c : Config) (w : Nat) :
    (e.buildTables c w).err = e.err := rfl
@[simp] theorem Engine.buildTables_fault (c : Config) (w : Nat) :
    (e.buildTables c w).fault = e.fault := rfl

/-! `Engine.engineReset` -/

@[simp] theorem Engine.engineReset_configured : e.engineReset.configured = e.configured := rfl
@[simp] theorem Engine.engineReset_cfgWindow : e.engineReset.cfgWindow = e.cfgWindow := rfl
@[simp] theorem Engine.engineReset_cfgMin : e.engineReset.cfgMin = e.cfgMin := rfl
@[simp] theorem Engine.engineReset_cfgAvg : e.engineReset.cfgAvg = e.cfgAvg := rfl
@[simp] theorem Engine.engineReset_cfgMax : e.engineReset.cfgMax = e.cfgMax := rfl
@[simp] theorem Engine.engineReset_cfgFlags : e.engineReset.cfgFlags = e.cfgFlags := rfl
@[simp] theorem Engine.engineReset_actWindow : e.engineReset.actWindow = e.actWindow := rfl
@[simp] theorem Engine.engineReset_actMin : e.engineReset.actMin = e.actMin := rfl
@[simp] theorem Engine.engineReset_actAvg : e.engineReset.actAvg = e.actAvg := rfl
@[simp] theorem Engine.engineReset_actMax : e.engineReset.actMax = e.actMax := rfl
@[simp] theorem Engine.engineReset_actFlags : e.engineReset.actFlags = e.actFlags := rfl
@[simp] theorem Engine.engineReset_shift : e.engineReset.shift = e.shift := rfl
@[simp] theorem Engine.engineReset_drop : e.engineReset.drop = e.drop := rfl
@[simp] theorem Engine.engineReset_hash : e.engineReset.hash = 0 := rfl
@[simp] theorem Engine.engineReset_win : e.engineReset.win = [] := rfl
@[simp] theorem Engine.engineReset_cursor : e.engineReset.cursor = 0 := rfl
@[simp] theorem Engine.engineReset_chunkSize : e.engineReset.chunkSize = 0 := rfl
@[simp] theorem Engine.engineReset_zipCnt : e.engineReset.zipCnt = 0 := rfl
@[simp] theorem Engine.engineReset_cacc : e.engineReset.cacc = [] := rfl
@[simp] theorem Engine.engineReset_total : e.engineReset.total = 0 := rfl
@[simp] theorem Engine.engineReset_sacc : e.engineReset.sacc = [] := rfl
@[simp] theorem Engine.engineReset_q : e.engineReset.q = [] := rfl
@[simp] theorem Engine.engineReset_outValid : e.engineReset.outValid = false := rfl
@[simp] theorem Engine.engineReset_outSize : e.engineReset.outSize = 0 := rfl
@[simp] theorem Engine.engineReset_outDigest : e.engineReset.outDigest = [] := rfl
@[simp] theorem Engine.engineReset_statsValid : e.engineReset.statsValid = false := rfl
@[simp] theorem Engine.engineReset_statsSize : e.engineReset.statsSize = 0 := rfl
@[simp] theorem Engine.engineReset_statsDigest : e.engineReset.statsDigest = [] := rfl
@[simp] theorem Engine.engineReset_err : e.engineReset.err = e.err := rfl
@[simp] theorem Engine.engineReset_fault : e.engineReset.fault = e.fault := rfl

/-! `Engine.construct` -/

@[simp] theorem Engine.construct_configured (c : Config) : (e.construct c).configured = true := rfl
@[simp] theorem Engine.construct_cfgWindow (c : Config) :
    (e.construct c).cfgWindow = e.cfgWindow := rfl
@[simp] theorem Engine.construct_cfgMin (c : Config) : (e.construct c).cfgMin = e.cfgMin := rfl
@[simp] theorem Engine.construct_cfgAvg (c : Config) : (e.construct c).cfgAvg = e.cfgAvg := rfl
@[simp] theorem Engine.construct_cfgMax (c : Config) : (e.construct c).cfgMax = e.cfgMax := rfl
@[simp] theorem Engine.construct_cfgFlags (c : Config) :
    (e.construct c).cfgFlags = e.cfgFlags := rfl
@[simp] theorem Engine.construct_actWindow (c : Config) :
    (e.construct c).actWindow = e.cfgWindow := rfl
@[simp] theorem Engine.construct_actMin (c : Config) : (e.construct c).actMin = e.cfgMin := rfl
@[simp] theorem Engine.construct_actAvg (c : Config) : (e.construct c).actAvg = e.cfgAvg := rfl
@[simp] theorem Engine.construct_actMax (c : Config) : (e.construct c).actMax = e.cfgMax := rfl
@[simp] theorem Engine.construct_actFlags (c : Config) :
    (e.construct c).actFlags = e.cfgFlags &&& 1 := rfl
@[simp] theorem Engine.construct_shift (c : Config) : (e.construct c).shift = shiftTable c := rfl
@[simp] theorem Engine.construct_drop (c : Config) :
    (e.construct c).drop = dropTable c e.cfgWindow.toNat := rfl
@[simp] theorem Engine.construct_hash (c : Config) : (e.construct c).hash = 0 := rfl
@[simp] theorem Engine.construct_win (c : Config) : (e.construct c).win = [] := rfl
@[simp] theorem Engine.construct_cursor (c : Config) : (e.construct c).cursor = 0 := rfl
@[simp] theorem Engine.construct_chunkSize (c : Config) : (e.construct c).chunkSize = 0 := rfl
@[simp] theorem Engine.construct_zipCnt (c : Config) : (e.construct c).zipCnt = 0 := rfl
@[simp] theorem Engine.construct_cacc (c : Config) : (e.construct c).cacc = [] := rfl
@[simp] theorem Engine.construct_total (c : Config) : (e.construct c).total = 0 := rfl
@[simp] theorem Engine.construct_sacc (c : Config) : (e.construct c).sacc = [] := rfl
@[simp] theorem Engine.construct_q (c : Config) : (e.construct c).q = [] := rfl
@[simp] theorem Engine.construct_outValid (c : Config) : (e.construct c).outValid = false := rfl
@[simp] theorem Engine.construct_outSize (c : Config) : (e.construct c).outSize = 0 := rfl
@[simp] theorem Engine.construct_outDigest (c : Config) : (e.construct c).outDigest = [] := rfl
@[simp] theorem Engine.construct_statsValid (c : Config) : (e.construct c).statsValid = false := rfl
@[simp] theorem Engine.construct_statsSize (c : Config) : (e.construct c).statsSize = 0 := rfl
@[simp] theorem Engine.construct_statsDigest (c : Config) : (e.construct c).statsDigest = [] := rfl
@[simp] theorem Engine.construct_err (c : Config) : (e.construct c).err = e.err := rfl
@[simp] theorem Engine.construct_fault (c : Config) : (e.construct c).fault = e.fault := rfl

/-! `State.setEngine` and the other updates of the machine -/

variable (s : State)

@[simp] theorem State.setEngine_cur : (s.setEngine e).cur = s.cur := rfl
@[simp] theorem State.setEngine_pending : (s.setEngine e).pending = s.pending := rfl
@[simp] theorem State.setEngine_readData : (s.setEngine e).readData = s.readData := rfl
@[simp] theorem State.setEngine_instances : (s.setEngine e).instances =
    s.instances.modify s.cur.toNat fun p => { p with engine := e } := rfl
@[simp] theorem State.powerOn_cur : s.powerOn.cur = s.cur := rfl
@[simp] theorem State.powerOn_pending : s.powerOn.pending = s.pending := rfl
@[simp] theorem State.powerOn_readData : s.powerOn.readData = s.readData := rfl
@[simp] theorem State.withFetchWord_head (nbits w : Nat) : (s.withFetchWord nbits w).pending =
    s.cmdWrite (BitVec.ofNat 64 (w % 2 ^ nbits)) :: s.pending := rfl
@[simp] theorem State.withFetchWord_instances (nbits w : Nat) :
    (s.withFetchWord nbits w).instances = s.instances := rfl
@[simp] theorem State.withFetchWord_cur (nbits w : Nat) : (s.withFetchWord nbits w).cur = s.cur := rfl
@[simp] theorem State.withFetchWord_readData (nbits w : Nat) :
    (s.withFetchWord nbits w).readData = s.readData := rfl
@[simp] theorem State.engine?_pending (l : List HostEvent) :
    State.engine? { s with pending := l } = s.engine? := rfl
@[simp] theorem State.engine?_readData (v : Option Word) :
    State.engine? { s with readData := v } = s.engine? := rfl

/-- Replacing the current engine makes it the current engine. -/
@[simp] theorem State.engine?_setEngine {s : State} {e : Engine} (e' : Engine)
    (h : s.engine? = some e) : (s.setEngine e').engine? = some e' := by
  obtain ⟨p, hp, -⟩ := Option.map_eq_some_iff.mp h
  simp [State.engine?, hp]

/-- Replacing the current engine twice keeps the second. -/
@[simp] theorem State.setEngine_setEngine (e' : Engine) :
    (s.setEngine e).setEngine e' = s.setEngine e' := by
  simp only [State.setEngine, State.mk.injEq, and_true]
  exact List.modify_modify_eq ..

/-- Replacing the current engine by itself changes nothing. -/
theorem State.setEngine_self {s : State} {e : Engine} (h : s.engine? = some e) :
    s.setEngine e = s := by
  obtain ⟨p, hp, rfl⟩ := Option.map_eq_some_iff.mp h
  obtain ⟨hlt, rfl⟩ := List.getElem?_eq_some_iff.mp hp
  obtain ⟨instances, cur, pending, readData⟩ := s
  simp only [State.setEngine, State.mk.injEq, and_true]
  refine List.ext_getElem? fun i => ?_
  by_cases hi : cur.toNat = i
  · subst hi; simp_all
  · simp [hi]

end Sys2Proof.Machine
end

