-- ==== Sys2Proof/Laws/Commands.lean ====
section
/-! SUPPORT. What the shared operations can do, said once: acting on the current instance, the guard of
a command, the byte step, and `exec` as the command of the current engine. -/

namespace Sys2Proof.Machine

/-! ### Acting on the current instance -/

theorem onEngine_eq_next {f : Engine → Engine} {s : State} {e : Engine} (h : s.engine? = some e) :
    onEngine f s = .next (s.setEngine (f e)) := by
  simp [onEngine, h]

/-- Everything `onEngine` can do. -/
theorem onEngine_cases (f : Engine → Engine) (s : State) :
    (∃ e, s.engine? = some e ∧ onEngine f s = .next (s.setEngine (f e))) ∨
      (s.engine? = none ∧ onEngine f s = .fault .noSuchInstance) := by
  cases h : s.engine? with
  | none => exact .inr ⟨rfl, by simp [onEngine, h]⟩
  | some e => exact .inl ⟨e, rfl, onEngine_eq_next h⟩

/-- `exec` is the command of the current engine, for every command. -/
theorem exec_eq_onEngine (i : Instr) (s : State) :
    exec i s = onEngine (fun e => e.run Config.build i) s := by
  cases i <;> rfl

/-- A word of the custom space never decodes (30_encoding.md R94, R97). -/
theorem decode_of_isCustomWord {w : Word} (h : isCustomWord w = true) : decode w = none := by
  have h : 0x80 ≤ (opcField w).toNat := by simpa [isCustomWord] using h
  unfold decode
  split <;> first | omega | rfl

/-- Everything a word written to CMD of an existing engine can do: a word of the custom space is refused
unless the engine is faulted, and every other word is run by the engine. -/
theorem runWord_cases {s : State} {e : Engine} (w : Word) (h : s.engine? = some e) :
    (isCustomWord w = true ∧ e.fault = false ∧ runWord w s = .refused .customCommand) ∨
      ((isCustomWord w = false ∨ e.fault = true) ∧
        runWord w s = .next (s.setEngine (e.runWord Config.build w))) := by
  cases hd : decode w with
  | some i =>
    refine .inr ⟨.inl ?_, by simp [runWord, Engine.runWord, hd, exec_eq_onEngine, onEngine, h]⟩
    cases hc : isCustomWord w
    · rfl
    · simp [decode_of_isCustomWord hc] at hd
  | none =>
    cases hc : isCustomWord w <;> cases hf : e.fault <;>
      simp [runWord, Engine.runWord, illegalWrite, hd, h, hc, hf]

theorem exec_eq_next {i : Instr} {s : State} {e : Engine} (h : s.engine? = some e) :
    exec i s = .next (s.setEngine (e.run Config.build i)) :=
  (exec_eq_onEngine i s).trans (onEngine_eq_next h)

theorem runWord_eq_next {w : Word} {s : State} {e : Engine} (h : s.engine? = some e)
    (hw : isCustomWord w = false ∨ e.fault = true) :
    runWord w s = .next (s.setEngine (e.runWord Config.build w)) := by
  rcases runWord_cases w h with ⟨hc, hf, -⟩ | ⟨-, h'⟩
  · simp [hc, hf] at hw
  · exact h'

/-! ### The guard of a command -/

variable {n : Bool} {body : Engine → Run} {e : Engine}

theorem Engine.command_halted (h : e.fault = true) : e.command n body = e.raise .halted := by
  simp [Engine.command, h]

theorem Engine.command_notConfigured (h : e.fault = false) (hn : n = true)
    (hc : e.configured = false) : e.command n body = e.raise .notConfigured := by
  simp [Engine.command, h, hn, hc]

theorem Engine.command_run (h : e.fault = false) (hc : n = true → e.configured = true) :
    e.command n body = (body e).finish := by
  cases n <;> simp_all [Engine.command]

/-- Everything a command can do: the two guards, then its body. -/
theorem Engine.command_cases (n : Bool) (body : Engine → Run) (e : Engine) :
    (e.fault = true ∧ e.command n body = e.raise .halted) ∨
    (e.fault = false ∧ n = true ∧ e.configured = false ∧
      e.command n body = e.raise .notConfigured) ∨
    (e.fault = false ∧ (n = true → e.configured = true) ∧ e.command n body = (body e).finish) := by
  cases hf : e.fault
  · by_cases hc : n = true ∧ e.configured = false
    · exact .inr (.inl ⟨rfl, hc.1, hc.2, Engine.command_notConfigured hf hc.1 hc.2⟩)
    · have hc' : n = true → e.configured = true := by
        intro hn
        cases h : e.configured
        · exact absurd ⟨hn, h⟩ hc
        · rfl
      exact .inr (.inr ⟨rfl, hc', Engine.command_run hf hc'⟩)
  · exact .inl ⟨rfl, Engine.command_halted hf⟩

@[simp] theorem Run.finish_done (e : Engine) : (Run.done e).finish = { e with err := .none } := rfl

@[simp] theorem Run.finish_raised (r : ErrCode) (e : Engine) :
    (Run.raised r e).finish = e.raise r := rfl

/-- A word that decodes to ILLEGAL reports one of two outcomes and changes nothing else. -/
theorem Engine.illegalWord_cases (e : Engine) :
    (e.fault = true ∧ e.illegalWord = e.raise .halted) ∨
      (e.fault = false ∧ e.illegalWord = e.raise .illegalCmd) := by
  cases h : e.fault <;> simp [Engine.illegalWord, h]

/-! ### The byte step -/

/-- The engine after steps 1 and 2 of a byte step. -/
abbrev Engine.afterMatch (c : Config) (e : Engine) (b : Byte) : Engine := (e.account b).zipStep c b

/-- The engine after steps 1, 2 and 4 of a byte step. -/
abbrev Engine.afterRoll (c : Config) (e : Engine) (b : Byte) : Engine :=
  ((e.afterMatch c b).roll b).countByte

/-- Everything a byte step can do (42_chunker.md R160): the bound, the fast skip, a rolled byte that
is no boundary, a cut, or a cut that the queue refuses. -/
theorem Engine.byteStep_cases (c : Config) (e : Engine) (b : Byte) :
    (e.total.toNat = 2 ^ 64 - 1 ∧ e.byteStep c b = .raised .countOverflow e) ∨
    (e.total.toNat ≠ 2 ^ 64 - 1 ∧ (e.afterMatch c b).fastSkips c = true ∧
      e.byteStep c b = .done (e.afterMatch c b).countByte) ∨
    (e.total.toNat ≠ 2 ^ 64 - 1 ∧ (e.afterMatch c b).fastSkips c = false ∧
      (e.afterRoll c b).atBoundary = false ∧ e.byteStep c b = .done (e.afterRoll c b)) ∨
    (e.total.toNat ≠ 2 ^ 64 - 1 ∧ (e.afterMatch c b).fastSkips c = false ∧
      (e.afterRoll c b).atBoundary = true ∧ (e.afterRoll c b).queueFull c = true ∧
      e.byteStep c b = .raised .queueOverflow (e.afterRoll c b)) ∨
    (e.total.toNat ≠ 2 ^ 64 - 1 ∧ (e.afterMatch c b).fastSkips c = false ∧
      (e.afterRoll c b).atBoundary = true ∧ (e.afterRoll c b).queueFull c = false ∧
      e.byteStep c b = .done ((e.afterRoll c b).pushChunk c)) := by
  by_cases ht : e.total.toNat = 2 ^ 64 - 1
  · exact .inl ⟨ht, by rw [Engine.byteStep, if_pos ht]⟩
  refine .inr ?_
  cases hs : (e.afterMatch c b).fastSkips c
  · refine .inr ?_
    cases hb : (e.afterRoll c b).atBoundary
    · exact .inl ⟨ht, rfl, rfl, by rw [Engine.byteStep, if_neg ht]; simp [hs, Engine.rollAndTest, hb]⟩
    · refine .inr ?_
      cases hq : (e.afterRoll c b).queueFull c
      · exact .inr ⟨ht, rfl, rfl, rfl,
          by rw [Engine.byteStep, if_neg ht]; simp [hs, Engine.rollAndTest, hb, Engine.cut, hq]⟩
      · exact .inl ⟨ht, rfl, rfl, rfl,
          by rw [Engine.byteStep, if_neg ht]; simp [hs, Engine.rollAndTest, hb, Engine.cut, hq]⟩
  · exact .inl ⟨ht, rfl, by rw [Engine.byteStep, if_neg ht]; simp [hs]⟩

@[simp] theorem Engine.feedBytes_nil (c : Config) (e : Engine) :
    Engine.feedBytes c [] e = .done e := rfl

theorem Engine.feedBytes_cons_done {c : Config} {b : Byte} {rest : List Byte} {e e' : Engine}
    (h : e.byteStep c b = .done e') :
    Engine.feedBytes c (b :: rest) e = Engine.feedBytes c rest e' := by
  simp [Engine.feedBytes, h]

theorem Engine.feedBytes_cons_raised {c : Config} {b : Byte} {rest : List Byte} {e e' : Engine}
    {r : ErrCode} (h : e.byteStep c b = .raised r e') :
    Engine.feedBytes c (b :: rest) e = .raised r e' := by
  simp [Engine.feedBytes, h]

@[simp] theorem Engine.feedBytes_singleton (c : Config) (b : Byte) (e : Engine) :
    Engine.feedBytes c [b] e = e.byteStep c b := by
  cases h : e.byteStep c b with
  | done e' => rw [Engine.feedBytes_cons_done h, Engine.feedBytes_nil]
  | raised r e' => rw [Engine.feedBytes_cons_raised h]

/-- An unbounded queue is never full (00_scope.md R8, `QCAP = INF`). -/
theorem Engine.queueFull_of_unbounded {c : Config} (h : c.qCap = none) (e : Engine) :
    e.queueFull c = false := by
  simp [Engine.queueFull, h]

@[simp] theorem Engine.queueFull_build (e : Engine) : e.queueFull Config.build = false :=
  Engine.queueFull_of_unbounded rfl e

/-! ### The match counter -/

/-- The three ways the match counter moves without `ZIP_REMATCH` (42_chunker.md R162). -/
theorem zipAdvance_cases {c : Config} (hc : c.zipRematch = false) (enabled : Bool) (cnt : Fin 5)
    (b : Byte) :
    ((enabled = false ∨ cnt.val = 4) ∧ zipAdvance c enabled cnt b = cnt) ∨
    (enabled = true ∧ cnt.val < 4 ∧ zipSig[cnt.val]? = some b ∧
      (zipAdvance c enabled cnt b).val = cnt.val + 1) ∨
    (enabled = true ∧ cnt.val < 4 ∧ zipSig[cnt.val]? ≠ some b ∧ zipAdvance c enabled cnt b = 0) := by
  by_cases h : enabled = true ∧ cnt.val < 4
  · by_cases hb : zipSig[cnt.val]? = some b
    · exact .inr (.inl ⟨h.1, h.2, hb, by simp only [zipAdvance, h, hb]; rfl⟩)
    · refine .inr (.inr ⟨h.1, h.2, hb, ?_⟩)
      simp only [zipAdvance, dif_pos h, if_neg hb, hc]
      rfl
  · refine .inl ⟨?_, by simp only [zipAdvance, dif_neg h]⟩
    cases enabled
    · exact .inl rfl
    · have := cnt.isLt
      exact .inr (by simp at h; omega)

@[simp] theorem zipAdvance_disabled (c : Config) (cnt : Fin 5) (b : Byte) :
    zipAdvance c false cnt b = cnt := by
  simp [zipAdvance]

end Sys2Proof.Machine
end

