-- ==== Sys2Proof/Laws/Bus.lean ====
section
/-! SUPPORT. What one host access and one step can do, said once: the inversion lemmas that statements
about `step` cite. -/

namespace Sys2Proof.Machine

/-- Every permitted read answers a value, and no other does (20_memory.md R63). -/
theorem Engine.hostRead_isSome (c : Config) (e : Engine) (off size : Nat) :
    (e.hostRead c off size).isSome = readPermitted off size := by
  unfold Engine.hostRead
  split <;> simp_all

/-- The command register is the register at offset 0 and at no other. -/
theorem Register.ofOffset_eq_cmd {off : Nat} : Register.ofOffset off = some .cmd ↔ off = 0 := by
  constructor
  · intro h
    unfold Register.ofOffset at h
    split at h
    · unfold Register.named at h
      split at h <;> simp_all
    · split at h
      · simp at h
      · split at h <;> simp at h
  · rintro rfl
    rfl

/-- What a permitted write does to the engine of its instance. -/
def Engine.writeEffect (off : Nat) (v : Word) (e : Engine) : Engine :=
  if off = 0 then e.runWord Config.build v else e.hostWrite off v

/-- Everything a permitted write to an existing engine can do: a word of the custom space written to CMD
is refused unless the engine is faulted, and every other write has its effect. -/
theorem performWrite_cases {s : State} {e : Engine} (off : Nat) (v : Word) (he : s.engine? = some e) :
    (off = 0 ∧ isCustomWord v = true ∧ e.fault = false ∧
      performWrite off v s = .refused .customCommand) ∨
    ((off ≠ 0 ∨ isCustomWord v = false ∨ e.fault = true) ∧
      performWrite off v s = .next (s.setEngine (e.writeEffect off v))) := by
  unfold performWrite Engine.writeEffect
  by_cases h : off = 0
  · rw [if_pos (Register.ofOffset_eq_cmd.mpr h), if_pos h]
    rcases runWord_cases v he with ⟨hc, hf, hr⟩ | ⟨hc, hr⟩
    · exact .inl ⟨h, hc, hf, hr⟩
    · exact .inr ⟨.inr hc, hr⟩
  · rw [if_neg fun h' => h (Register.ofOffset_eq_cmd.mp h'), if_neg h]
    exact .inr ⟨.inl h, onEngine_eq_next he⟩

/-- Everything one host access can do: it names no instance, it comes from a second agent, it is not
permitted, it reads a value, it writes a word of the custom space to CMD of an engine that is not faulted,
or it writes to the engine of its instance. -/
theorem perform_cases (a : Access) (s : State) :
    (s.instances[a.inst.toNat]? = none ∧ perform a s = .fault .noSuchInstance) ∨
    ∃ p, s.instances[a.inst.toNat]? = some p ∧
      ((a.agent ≠ p.owner ∧ perform a s = .refused .secondAgent) ∨
      (a.agent = p.owner ∧ a.kind = .read ∧ readPermitted a.off.toNat a.size = false ∧
        perform a s = .refused .busError) ∨
      (∃ v, a.agent = p.owner ∧ a.kind = .write v ∧ writePermitted a.off.toNat a.size = false ∧
        perform a s = .refused .busError) ∨
      (∃ v, a.agent = p.owner ∧ a.kind = .read ∧ readPermitted a.off.toNat a.size = true ∧
        p.engine.hostRead Config.build a.off.toNat a.size = some v ∧
        perform a s = .next { s with cur := a.inst, readData := some v }) ∨
      (∃ v, a.agent = p.owner ∧ a.kind = .write v ∧ writePermitted a.off.toNat a.size = true ∧
        a.off.toNat = 0 ∧ isCustomWord v = true ∧ p.engine.fault = false ∧
        perform a s = .refused .customCommand) ∨
      (∃ v, a.agent = p.owner ∧ a.kind = .write v ∧ writePermitted a.off.toNat a.size = true ∧
        (a.off.toNat ≠ 0 ∨ isCustomWord v = false ∨ p.engine.fault = true) ∧
        perform a s = .next (({ s with cur := a.inst } : State).setEngine
          (p.engine.writeEffect a.off.toNat v)))) := by
  cases hp : s.instances[a.inst.toNat]? with
  | none => exact .inl ⟨rfl, by simp [perform, hp]⟩
  | some p =>
    refine .inr ⟨p, rfl, ?_⟩
    by_cases ho : a.agent = p.owner
    · refine .inr ?_
      cases hk : a.kind with
      | read =>
        have hs := Engine.hostRead_isSome Config.build p.engine a.off.toNat a.size
        cases hv : p.engine.hostRead Config.build a.off.toNat a.size with
        | none => exact .inl ⟨ho, rfl, by simp_all, by simp [perform, hp, ho, hk, hv]⟩
        | some v =>
          exact .inr (.inr (.inl ⟨v, ho, rfl, by simp_all, rfl, by simp [perform, hp, ho, hk, hv]⟩))
      | write v =>
        cases hw : writePermitted a.off.toNat a.size
        · exact .inr (.inl ⟨v, ho, rfl, rfl, by simp [perform, hp, ho, hk, hw]⟩)
        · have he : ({ s with cur := a.inst } : State).engine? = some p.engine := by
            simp [State.engine?, hp]
          have hr : perform a s = performWrite a.off.toNat v { s with cur := a.inst } := by
            simp [perform, hp, ho, hk, hw]
          rw [hr]
          rcases performWrite_cases a.off.toNat v he with ⟨h0, hc, hf, h⟩ | ⟨h0, h⟩
          · exact .inr (.inr (.inr (.inl ⟨v, ho, rfl, rfl, h0, hc, hf, h⟩)))
          · exact .inr (.inr (.inr (.inr ⟨v, ho, rfl, rfl, h0, h⟩)))
    · exact .inl ⟨ho, by simp [perform, hp, ho]⟩

/-- Everything a step can do: nothing is pending, power-on reset, or one access. -/
theorem step_cases (s : State) :
    (s.pending = [] ∧ step s = .next s) ∨
    (∃ rest, s.pending = .powerOnReset :: rest ∧
      step s = .next ({ s with pending := rest } : State).powerOn) ∨
    (∃ a rest, s.pending = .access a :: rest ∧ step s = perform a { s with pending := rest }) := by
  cases h : s.pending with
  | nil => exact .inl ⟨rfl, by simp [step, nextEvent, h]⟩
  | cons ev rest =>
    cases ev with
    | powerOnReset => exact .inr (.inl ⟨rest, rfl, by simp [step, nextEvent, h, handle]⟩)
    | access a => exact .inr (.inr ⟨a, rest, rfl, by simp [step, nextEvent, h, handle]⟩)

end Sys2Proof.Machine
end

