-- ==== Sys2Proof/Laws/PerInstr.lean ====
section
/-! SUPPORT. Facts about every command as syntax, one lemma per constructor. -/

namespace Sys2Proof.Laws.EncodeOpcode

/-- The low byte of a command's word is its opcode (30_encoding.md R87, R91). -/
def Statement (i : Instr) : Prop := opcField (encode i) = i.opcode

theorem low_byte_formatC (data : BitVec 48) (opa opc : Byte) :
    opcField (formatC data opa opc) = opc := by
  ext i hi
  simp [opcField, formatC, show i < 16 by omega, show i < 64 by omega, hi]

theorem nop (opa : Byte) (data : BitVec 48) : Statement (.nop opa data) := low_byte_formatC ..

theorem cfg : Statement .cfg := low_byte_formatC ..

theorem upd (b : Byte) : Statement (.upd b) := low_byte_formatC ..

theorem updp (bytes : List Byte) : Statement (.updp bytes) := by
  simp only [Statement, Instr.opcode]
  have low : ∀ i : Fin 8, (3#64)[i.val] = (3#8)[i.val] := by decide
  ext i hi
  simp [opcField, encode, show i < 16 by omega, show i < 64 by omega, hi, low ⟨i, hi⟩]

theorem fin : Statement .fin := low_byte_formatC ..

theorem pop : Statement .pop := low_byte_formatC ..

theorem roll (b : Byte) : Statement (.roll b) := low_byte_formatC ..

theorem hrst : Statement .hrst := low_byte_formatC ..

end Sys2Proof.Laws.EncodeOpcode
end

