-- ==== Sys2Proof/Laws/Reduce.lean ====
section
/-! SUPPORT. GF(2) reduction (40_polynomial_table.md R111): the loop ends below the modulus, differs
from its input by a multiple of the modulus, and is the only such value; hence it is linear and may be
applied before a shift. -/

namespace Sys2Proof.Machine

/-! ### Bit length -/

theorem bitlen_zero : bitlen 0 = 0 := rfl

theorem bitlen_le_iff {v n : Nat} : bitlen v ≤ n ↔ v < 2 ^ n := by
  unfold bitlen
  split_ifs with h
  · simp [h]
  · rw [Nat.succ_le_iff, Nat.log2_lt h]

theorem lt_bitlen_iff {v n : Nat} : n < bitlen v ↔ 2 ^ n ≤ v := by
  rw [← not_iff_not, not_lt, not_le]; exact bitlen_le_iff

theorem lt_two_pow_bitlen (v : Nat) : v < 2 ^ bitlen v := bitlen_le_iff.mp le_rfl

theorem bitlen_eq_zero {v : Nat} : bitlen v = 0 ↔ v = 0 := by
  rw [← Nat.le_zero, bitlen_le_iff]; simp

/-- The bit length of a number with a known top bit. -/
theorem bitlen_eq {v n : Nat} (h : 2 ^ n ≤ v) (h' : v < 2 ^ (n + 1)) : bitlen v = n + 1 :=
  le_antisymm (bitlen_le_iff.mpr h') (lt_bitlen_iff.mpr h)

theorem bitlen_shiftLeft {v : Nat} (h : v ≠ 0) (k : Nat) : bitlen (v <<< k) = bitlen v + k := by
  obtain ⟨n, hn⟩ := Nat.exists_eq_succ_of_ne_zero (mt bitlen_eq_zero.mp h)
  have hlo : 2 ^ n ≤ v := lt_bitlen_iff.mp (by omega)
  have hhi : v < 2 ^ (n + 1) := bitlen_le_iff.mp (by omega)
  rw [hn, Nat.succ_eq_add_one, show n + 1 + k = (n + k) + 1 by omega, Nat.shiftLeft_eq]
  refine bitlen_eq ?_ ?_
  · rw [pow_add]; exact Nat.mul_le_mul_right _ hlo
  · rw [show n + k + 1 = (n + 1) + k by omega, pow_add]
    exact Nat.mul_lt_mul_of_pos_right hhi (by positivity)

theorem bitlen_xor_le {a b n : Nat} (ha : bitlen a ≤ n) (hb : bitlen b ≤ n) :
    bitlen (a ^^^ b) ≤ n :=
  bitlen_le_iff.mpr (Nat.xor_lt_two_pow (bitlen_le_iff.mp ha) (bitlen_le_iff.mp hb))

theorem testBit_top {v n : Nat} (h : bitlen v = n + 1) : v.testBit n = true := by
  have hlo : 2 ^ n ≤ v := lt_bitlen_iff.mp (by omega)
  have hhi : v < 2 ^ (n + 1) := bitlen_le_iff.mp (by omega)
  rw [Nat.testBit_eq_decide_div_mod_eq, decide_eq_true_eq]
  have : v / 2 ^ n = 1 := by
    apply Nat.div_eq_of_lt_le <;> rw [pow_succ] at * <;> omega
  rw [this]

theorem bitlen_le_of_testBit_top {v n : Nat} (h : bitlen v ≤ n + 1) (ht : v.testBit n = false) :
    bitlen v ≤ n := by
  by_contra hn
  have := testBit_top (show bitlen v = n + 1 by omega)
  simp_all

/-- Two numbers of the same positive bit length cancel their top bit. -/
theorem bitlen_xor_lt {a b n : Nat} (ha : bitlen a = n + 1) (hb : bitlen b = n + 1) :
    bitlen (a ^^^ b) ≤ n :=
  bitlen_le_of_testBit_top (bitlen_xor_le ha.le hb.le)
    (by rw [Nat.testBit_xor, testBit_top ha, testBit_top hb]; rfl)

/-- A number of smaller bit length leaves the top bit. -/
theorem bitlen_xor_of_lt {a b : Nat} (h : bitlen b < bitlen a) : bitlen (a ^^^ b) = bitlen a := by
  obtain ⟨n, hn⟩ : ∃ n, bitlen a = n + 1 := ⟨bitlen a - 1, by omega⟩
  refine le_antisymm (bitlen_xor_le le_rfl h.le) ?_
  rw [hn]
  refine lt_bitlen_iff.mpr (Nat.ge_two_pow_of_testBit ?_)
  rw [Nat.testBit_xor, testBit_top hn, Nat.testBit_lt_two_pow (bitlen_le_iff.mp (by omega))]
  rfl

/-! ### Multiples of a modulus -/

/-- The product over GF(2) of `m` and the polynomial of the first `n` bits of `q`. -/
def gfMul (m q : Nat) : Nat → Nat
  | 0 => 0
  | n + 1 => gfMul m q n ^^^ (if q.testBit n then m <<< n else 0)

/-- `v` is a multiple of `m` over GF(2). -/
def IsMultiple (m v : Nat) : Prop := ∃ q n, v = gfMul m q n

theorem gfMul_succ_of_lt {m q n : Nat} (h : q < 2 ^ n) : gfMul m q (n + 1) = gfMul m q n := by
  simp [gfMul, Nat.testBit_lt_two_pow h]

theorem gfMul_stable {m q n k : Nat} (h : q < 2 ^ n) : gfMul m q (n + k) = gfMul m q n := by
  induction k with
  | zero => rfl
  | succ k ih =>
    rw [← add_assoc, gfMul_succ_of_lt (h.trans_le (Nat.pow_le_pow_right (by norm_num) (by omega))), ih]

theorem gfMul_xor (m p q n : Nat) : gfMul m (p ^^^ q) n = gfMul m p n ^^^ gfMul m q n := by
  induction n with
  | zero => simp [gfMul]
  | succ n ih =>
    have hx (a b x y : Nat) : (a ^^^ x) ^^^ (b ^^^ y) = (a ^^^ b) ^^^ (x ^^^ y) := by
      simp only [Nat.xor_assoc, Nat.xor_left_comm b x y]
    simp only [gfMul, ih, Nat.testBit_xor]
    rw [hx]
    cases p.testBit n <;> cases q.testBit n <;> simp

theorem gfMul_congr {m p q n : Nat} (h : ∀ i < n, p.testBit i = q.testBit i) :
    gfMul m p n = gfMul m q n := by
  induction n with
  | zero => rfl
  | succ n ih => simp only [gfMul, ih fun i hi => h i (by omega), h n (by omega)]

theorem gfMul_zero_left (m n : Nat) : gfMul m 0 n = 0 := by
  induction n with
  | zero => rfl
  | succ n ih => simp [gfMul, ih]

theorem bitlen_gfMul_le {m q n : Nat} : bitlen (gfMul m q n) ≤ bitlen m + n := by
  induction n with
  | zero => simp [gfMul, bitlen]
  | succ n ih =>
    refine bitlen_xor_le (ih.trans (by omega)) ?_
    split_ifs
    · by_cases hm : m = 0
      · simp [hm, bitlen]
      · rw [bitlen_shiftLeft hm]; omega
    · simp [bitlen]

/-- A nonzero multiple is at least as long as the modulus. -/
theorem bitlen_le_of_isMultiple {m v : Nat} (h : IsMultiple m v) (hv : v ≠ 0) :
    bitlen m ≤ bitlen v := by
  obtain ⟨q, n, rfl⟩ := h
  induction n with
  | zero => exact absurd rfl hv
  | succ n ih =>
    simp only [gfMul] at hv ⊢
    by_cases hq : q.testBit n
    · simp only [hq, if_true] at hv ⊢
      by_cases hm : m = 0
      · simp [hm, bitlen]
      have hlong : bitlen (m <<< n) = bitlen m + n := bitlen_shiftLeft hm n
      have hmpos : 0 < bitlen m := Nat.pos_of_ne_zero (mt bitlen_eq_zero.mp hm)
      rcases Nat.lt_or_ge (bitlen (gfMul m q n)) (bitlen m + n) with hlt | hge
      · rw [Nat.xor_comm, bitlen_xor_of_lt (by omega)]; omega
      · exfalso
        have hle : bitlen (gfMul m q n) < bitlen m + n := by
          cases n with
          | zero => simpa [gfMul, bitlen] using hmpos
          | succ k =>
            refine lt_of_le_of_lt (bitlen_xor_le (n := bitlen m + k) bitlen_gfMul_le ?_) (by omega)
            split_ifs
            · rw [bitlen_shiftLeft hm]
            · simp [bitlen]
        omega
    · simp only [hq, Bool.false_eq_true, if_false, Nat.xor_zero] at hv ⊢
      exact ih hv

theorem isMultiple_zero (m : Nat) : IsMultiple m 0 := ⟨0, 0, rfl⟩

theorem isMultiple_xor {m a b : Nat} (ha : IsMultiple m a) (hb : IsMultiple m b) :
    IsMultiple m (a ^^^ b) := by
  obtain ⟨p, i, rfl⟩ := ha
  obtain ⟨q, j, rfl⟩ := hb
  have cut (q i n : Nat) (h : i ≤ n) : gfMul m q i = gfMul m (q % 2 ^ i) n := by
    obtain ⟨k, rfl⟩ := Nat.exists_eq_add_of_le h
    rw [gfMul_stable (Nat.mod_lt _ (by positivity))]
    exact gfMul_congr fun x hx => by simp [Nat.testBit_mod_two_pow, hx]
  refine ⟨(p % 2 ^ i) ^^^ (q % 2 ^ j), max i j, ?_⟩
  rw [gfMul_xor, ← cut p i _ (le_max_left ..), ← cut q j _ (le_max_right ..)]

theorem isMultiple_shift_self (m k : Nat) : IsMultiple m (m <<< k) := by
  refine ⟨2 ^ k, k + 1, ?_⟩
  have h : gfMul m (2 ^ k) k = 0 := by
    rw [gfMul_congr (q := 0) fun i hi => by simp [Nat.testBit_two_pow]; omega, gfMul_zero_left]
  simp [gfMul, h]

theorem xor_shiftLeft (a b k : Nat) : (a ^^^ b) <<< k = (a <<< k) ^^^ (b <<< k) := by
  refine Nat.eq_of_testBit_eq fun i => ?_
  simp only [Nat.testBit_shiftLeft, Nat.testBit_xor]
  cases decide (i ≥ k) <;> simp

theorem isMultiple_shift {m v : Nat} (h : IsMultiple m v) (k : Nat) : IsMultiple m (v <<< k) := by
  obtain ⟨q, n, rfl⟩ := h
  induction n with
  | zero => simpa [gfMul] using isMultiple_zero m
  | succ n ih =>
    simp only [gfMul, xor_shiftLeft]
    refine isMultiple_xor ih ?_
    split_ifs
    · rw [← Nat.shiftLeft_add]; exact isMultiple_shift_self m _
    · simpa using isMultiple_zero m

/-! ### The reduction loop -/

/-- The loop changes its value by a multiple of the modulus. -/
theorem reduceLoop_isMultiple (dm m fuel v : Nat) :
    IsMultiple m (v ^^^ reduceLoop dm m fuel v) := by
  induction fuel generalizing v with
  | zero => simpa [reduceLoop] using isMultiple_zero m
  | succ fuel ih =>
    simp only [reduceLoop]
    split_ifs
    · have cancel (x r : Nat) : x ^^^ ((v ^^^ x) ^^^ r) = v ^^^ r := by
        rw [Nat.xor_comm v x, Nat.xor_assoc, ← Nat.xor_assoc x x, Nat.xor_self, Nat.zero_xor]
      have := isMultiple_xor (isMultiple_shift_self m (bitlen v - dm))
        (ih (v ^^^ (m <<< (bitlen v - dm))))
      rwa [cancel] at this
    · simpa using isMultiple_zero m

/-- With enough passes the loop ends below the modulus. -/
theorem bitlen_reduceLoop_lt {dm m : Nat} (hdm : bitlen m = dm) (hpos : 0 < dm) {fuel v : Nat}
    (h : bitlen v ≤ fuel) : bitlen (reduceLoop dm m fuel v) < dm := by
  induction fuel generalizing v with
  | zero => simp only [reduceLoop]; omega
  | succ fuel ih =>
    simp only [reduceLoop]
    split_ifs with hge
    · refine ih ?_
      obtain ⟨n, hn⟩ : ∃ n, bitlen v = n + 1 := ⟨bitlen v - 1, by omega⟩
      have hm : m ≠ 0 := fun e => by simp [e, bitlen] at hdm; omega
      have := bitlen_xor_lt hn (b := m <<< (bitlen v - dm))
        (by rw [bitlen_shiftLeft hm, hdm]; omega)
      omega
    · omega

/-- The remainder is the only value below the modulus that differs from the input by a multiple. -/
theorem eq_of_isMultiple_xor {m a b : Nat} (h : IsMultiple m (a ^^^ b)) (ha : bitlen a < bitlen m)
    (hb : bitlen b < bitlen m) : a = b := by
  by_contra hne
  have hx : a ^^^ b ≠ 0 := fun e => hne (Nat.xor_eq_zero_iff.mp e)
  have h1 := bitlen_le_of_isMultiple h hx
  have h2 := bitlen_xor_le (n := bitlen m - 1) (a := a) (b := b) (by omega) (by omega)
  omega

/-! ### The remainder modulo `POLY` -/

/-- Bit 63 of `POLY` is set (40_polynomial_table.md R112). -/
theorem poly_testBit_top (c : Config) : c.poly.toNat.testBit 63 = true := by
  rw [BitVec.testBit_toNat, Config.poly, BitVec.getLsbD_or]
  simp

/-- `D = bitlen(P) = 64` (40_polynomial_table.md R112). -/
theorem bitlen_poly (c : Config) : bitlen c.poly.toNat = 64 :=
  bitlen_eq (Nat.ge_two_pow_of_testBit (poly_testBit_top c)) c.poly.isLt

/-- The remainder modulo `POLY` of an unbounded value, before it is put into 64 bits. -/
def polyRem (c : Config) (v : Nat) : Nat := reduceLoop polyDegree c.poly.toNat (bitlen v) v

theorem polyRem_isMultiple (c : Config) (v : Nat) :
    IsMultiple c.poly.toNat (v ^^^ polyRem c v) := reduceLoop_isMultiple ..

theorem reducePoly_eq_reduce (c : Config) (v : Nat) : reducePoly c v = reduce v c.poly.toNat := by
  rw [reducePoly, reduce, bitlen_poly, polyDegree]

theorem bitlen_polyRem_lt (c : Config) (v : Nat) : bitlen (polyRem c v) < 64 :=
  bitlen_reduceLoop_lt (bitlen_poly c) (by norm_num) le_rfl

theorem polyRem_lt (c : Config) (v : Nat) : polyRem c v < 2 ^ 63 :=
  bitlen_le_iff.mp (Nat.le_of_lt_succ (bitlen_polyRem_lt c v))

@[simp] theorem toNat_reducePoly (c : Config) (v : Nat) : (reducePoly c v).toNat = polyRem c v := by
  rw [reducePoly, BitVec.toNat_ofNat]
  exact Nat.mod_eq_of_lt ((polyRem_lt c v).trans (by norm_num))

/-- The remainder is determined by being short and congruent to the value. -/
theorem polyRem_unique {c : Config} {v r : Nat} (h : IsMultiple c.poly.toNat (v ^^^ r))
    (hr : r < 2 ^ 63) : polyRem c v = r := by
  refine eq_of_isMultiple_xor (m := c.poly.toNat) ?_ ?_ ?_
  · have cancel (x : Nat) : (v ^^^ x) ^^^ (v ^^^ r) = x ^^^ r := by
      rw [Nat.xor_comm v x, Nat.xor_assoc, ← Nat.xor_assoc v v, Nat.xor_self, Nat.zero_xor]
    have := isMultiple_xor (polyRem_isMultiple c v) h
    rwa [cancel] at this
  · rw [bitlen_poly]; exact bitlen_polyRem_lt c v
  · rw [bitlen_poly]; exact Nat.lt_succ_of_le (bitlen_le_iff.mpr hr)

/-- A value already below `2^63` is its own remainder. -/
theorem polyRem_of_lt {c : Config} {v : Nat} (h : v < 2 ^ 63) : polyRem c v = v :=
  polyRem_unique (by simpa using isMultiple_zero _) h

/-- Reduction is linear over GF(2). -/
theorem polyRem_xor (c : Config) (a b : Nat) :
    polyRem c (a ^^^ b) = polyRem c a ^^^ polyRem c b := by
  refine polyRem_unique ?_ (Nat.xor_lt_two_pow (polyRem_lt c a) (polyRem_lt c b))
  have swap (x y : Nat) : (a ^^^ b) ^^^ (x ^^^ y) = (a ^^^ x) ^^^ (b ^^^ y) := by
    simp only [Nat.xor_assoc, Nat.xor_left_comm b x y]
  rw [swap]
  exact isMultiple_xor (polyRem_isMultiple c a) (polyRem_isMultiple c b)

/-- Reducing before a shift changes no remainder. -/
theorem polyRem_shiftLeft (c : Config) (v k : Nat) :
    polyRem c (polyRem c v <<< k) = polyRem c (v <<< k) := by
  have h := isMultiple_shift (polyRem_isMultiple c v) k
  rw [xor_shiftLeft] at h
  refine (polyRem_unique (v := v <<< k) ?_ (polyRem_lt c _)).symm
  have cancel (x y z : Nat) : (x ^^^ y) ^^^ (y ^^^ z) = x ^^^ z := by
    rw [Nat.xor_assoc, ← Nat.xor_assoc y y, Nat.xor_self, Nat.zero_xor]
  have := isMultiple_xor h (polyRem_isMultiple c (polyRem c v <<< k))
  rwa [cancel] at this

end Sys2Proof.Machine
end

