-- ==== Sys2Proof/Laws/Tables.lean ====
section
/-! SUPPORT. The entries of the tables, by index: what statements about them cite instead of unfolding
the arrays. -/

namespace Sys2Proof.Machine

@[simp] theorem Table.entry_tabulate (f : Nat → Word) (i : Byte) :
    Table.entry (Table.tabulate f) i = f i.toNat := by
  simp [Table.entry, Table.tabulate]

/-- Two tables with the same entries are the same table. -/
theorem Table.ext_entry {t u : Table} (h : ∀ i, Table.entry t i = Table.entry u i) : t = u := by
  refine Vector.ext fun i hi => ?_
  have := h (BitVec.ofNat 8 i)
  simpa [Table.entry, Nat.mod_eq_of_lt hi] using this

/-- `SHIFT[i]` (40_polynomial_table.md R113). -/
theorem shiftTable_entry (c : Config) (i : Byte) :
    Table.entry (shiftTable c) i =
      reduce (i.toNat <<< 63) c.poly.toNat ^^^ BitVec.ofNat 64 (i.toNat <<< 63) := by
  simp only [shiftTable, Table.entry_tabulate, shiftEntry, reducePoly_eq_reduce]
  rfl

/-- `DROP[i]` (40_polynomial_table.md R114). -/
theorem dropTable_entry (c : Config) (w : Nat) (i : Byte) :
    Table.entry (dropTable c w) i = reduce (i.toNat <<< (8 * w)) c.poly.toNat := by
  simp only [dropTable, Table.entry_tabulate, dropEntry, reducePoly_eq_reduce]

end Sys2Proof.Machine
end

