-- ==== Sys2Proof/Tests/Slice0.lean ====
section
/-! SUPPORT. Tests: the smoke test of WellFormed, one decoding at least for every command, at most two
small steps for every command with the values of spec/95_test_vectors.md, a few host accesses, and for
every statement with hypotheses a witness that meets them. -/

open Sys2Proof Sys2Proof.Machine Sys2Proof.Spec

namespace Sys2Proof.Tests

/-! ### Small states -/

/-- An engine after power-on with its options staged. -/
def staged (w mn av mx z : Word) : Engine :=
  { Engine.reset with cfgWindow := w, cfgMin := mn, cfgAvg := av, cfgMax := mx, cfgFlags := z }

/-- A freshly configured engine. -/
def fresh (c : Config) (w mn av mx z : Word) : Engine := (staged w mn av mx z).construct c

/-- The device with one instance, whose engine is the given one, owned by agent 0. -/
def solo (e : Engine) : State := { State.reset with instances := [⟨e, 0⟩] }

/-- The engine of a device with one instance after a command. -/
def after (i : Instr) (e : Engine) : Option Engine :=
  match exec i (solo e) with
  | .next s => s.engine?
  | .fault _ => none
  | .refused _ => none

/-- The engine after a word written to CMD. -/
def afterWord (w : Word) (e : Engine) : Option Engine :=
  match runWord w (solo e) with
  | .next s => s.engine?
  | .fault _ => none
  | .refused _ => none

/-- An 8-byte write by agent 0 to instance 0. -/
def write8 (off : BitVec 14) (v : Word) : Access := ⟨0, 0, off, 8, .write v⟩

/-- A read by agent 0 from instance 0. -/
def readN (off : BitVec 14) (n : Nat) : Access := ⟨0, 0, off, n, .read⟩

/-- A build whose queue holds one record. -/
def oneRecord : Config := { Config.build with qCap := some 1, qCap_legal := by decide }

/-- A build with the constant tables. -/
def constTables : Config :=
  { Config.build with tableStrategy := .const64, const64_legal := by decide }

/-- An engine with one undelivered record. -/
def withRecord (c : Config) (e : Engine) : Engine := { e with q := [⟨8, (c.chunkDigest []).toList⟩] }

/-! ### WellFormed: every check refuses an ill-formed term -/

theorem test_wf_refuses_empty_updp : Instr.wf (.updp []) = false := by decide

theorem test_wf_refuses_updp_of_seven : Instr.wf (.updp [1, 2, 3, 4, 5, 6, 7]) = false := by decide

theorem test_wf_accepts_updp_of_one_and_six :
    Instr.wf (.updp [0]) = true ∧ Instr.wf (.updp [1, 2, 3, 4, 5, 6]) = true := by decide

/-! ### Decoding: 95_test_vectors.md section 2.6 -/

theorem test_decode_nop :
    decode 0 = some (.nop 0 0) ∧ decode 0xDEADBEEF00001200 = some (.nop 0x12 0xDEADBEEF0000) := by
  decide

theorem test_decode_cfg : decode 1 = some .cfg ∧ decode 0x101 = none ∧
    decode 0x0010000000000001 = none := by decide

theorem test_decode_upd : decode 0xFF02 = some (.upd 0xFF) ∧ decode 0xFF0002 = none := by decide

theorem test_decode_updp :
    decode 0x103 = some (.updp [0x00]) ∧
      decode 0x0000008531330303 = some (.updp [0x33, 0x31, 0x85]) ∧
      decode 0x0706050403020603 = some (.updp [2, 3, 4, 5, 6, 7]) := by decide

theorem test_decode_updp_refuses :
    decode 0x003 = none ∧ decode 0x703 = none ∧ decode 0x0000018531330303 = none := by decide

theorem test_decode_fin : decode 4 = some .fin := by decide

theorem test_decode_pop : decode 5 = some .pop := by decide

theorem test_decode_roll : decode 0x4106 = some (.roll 0x41) := by decide

theorem test_decode_hrst : decode 7 = some .hrst := by decide

theorem test_decode_reserved_and_custom :
    decode 0x08 = none ∧ decode 0x7F = none ∧ decode 0x80 = none ∧ decode 0xFF = none := by decide

/-- The words of 30_encoding.md R98. -/
theorem test_encode :
    encode (.updp [0x33, 0x31, 0x85]) = 0x0000008531330303 ∧ encode (.upd 0xFF) = 0xFF02 := by decide

theorem test_table_words_decode :
    [0x00, 0x01, 0x02, 0x103, 0x04, 0x05, 0x06, 0x07].map (decodeTableWord 64) =
      [some (.nop 0 0), some .cfg, some (.upd 0), some (.updp [0]), some .fin, some .pop,
        some (.roll 0), some .hrst] := by decide

/-! ### One step of each command: 95_test_vectors.md sections 2.2 to 2.5 -/

theorem test_nop_on_reset : (afterWord 0xDEADBEEF00001200 Engine.reset).map (·.status) = some 0 := by
  decide

/-- Section 2.3, queue bound: after the fatal fault a `nop` gives `STATUS = 0x1709`. -/
theorem test_nop_while_faulted :
    (after (.nop 0 0)
      { withRecord Config.build (fresh Config.build 4 8 1 16 0) with
        err := .queueOverflow, fault := true }).map (·.status) = some 0x1709 := by decide +kernel

theorem test_cfg_on_reset :
    (after .cfg Engine.reset).map
        (fun e => (e.status, e.actWindow, e.actMin, e.actAvg, e.actMax, e.actFlags)) =
      some (0x1, 64, 8192, 16384, 32768, 0) := by decide +kernel

theorem test_cfg_checks_average_first :
    [staged 64 8192 12000 32768 0, staged 0 8192 3 32768 0, staged 0 8192 4 32768 0].map
        (fun e => (after .cfg e).map (·.status)) =
      [some 0x100, some 0x100, some 0x200] := by decide +kernel

/-- Section 2.3 case a: the eighth byte of a chunk cuts, 42_chunker.md R155. -/
theorem test_upd_cuts_eighth_byte :
    (after (.upd 8) { fresh Config.build 4 8 1 16 0 with
        chunkSize := 7, cacc := [1, 2, 3, 4, 5, 6, 7], total := 7
        hash := 0x0607, win := [(0, 6), (1, 7)], cursor := 2 }).map
        (fun e => (e.q.map (·.size), e.win, e.chunkSize, e.cursor)) =
      some ([8], [], 0, 3) := by decide +kernel

/-- Section 2.3, counter bound. -/
theorem test_upd_at_counter_bound :
    (after (.upd 0x41) { fresh Config.build 64 8192 16384 32768 0 with
        total := 0xFFFFFFFFFFFFFFFF }).map (fun e => (e.status, e.total)) =
      some (0x1601, 0xFFFFFFFFFFFFFFFF) := by decide +kernel

/-- Section 2.3 case m: a signature at the stream start cuts a 4-byte chunk; the byte was rolled. -/
theorem test_updp_zip_signature :
    (after (.updp [0x50, 0x4B, 0x03, 0x04, 0xAA]) (fresh Config.build 64 8192 16384 32768 1)).map
        (fun e => (e.q.map (·.size), e.chunkSize, e.cursor, e.zipCnt)) =
      some ([4], 1, 1, 0) := by decide +kernel

/-- Section 2.3 case i: with `MIN = 0` every byte of a word cuts. -/
theorem test_updp_several_cuts :
    (after (.updp [1, 2, 3, 4, 5]) (fresh Config.build 2 0 1 100 0)).map
        (fun e => (e.q.map (·.size), e.chunkSize, e.total, e.hash, e.cursor)) =
      some ([1, 1, 1, 1, 1], 0, 5, 0, 1) := by decide +kernel

/-- Section 2.4, first row and last row. -/
theorem test_fin_empty_stream :
    (after .fin (fresh Config.build 64 8192 16384 32768 0)).map
        (fun e => (e.status, e.statsSize, e.q.length)) = some (0x5, 0, 0) ∧
      (after .fin Engine.reset).map (·.status) = some 0x300 := by decide +kernel

/-- Section 2.4, second row. -/
theorem test_fin_flushes_partial_chunk :
    (after .fin { fresh Config.build 4 8 1 16 0 with
        chunkSize := 4, cacc := [17, 18, 19, 20], total := 20, cursor := 2 }).map
        (fun e => (e.q.map (·.size), e.statsSize, e.total, e.chunkSize, e.cursor)) =
      some ([4], 20, 0, 0, 2) := by decide +kernel

/-- Section 2.4, the `pop` row. -/
theorem test_pop_oldest :
    (after .pop { fresh Config.build 4 8 1 16 0 with q := [⟨8, []⟩, ⟨7, []⟩, ⟨4, []⟩] }).map
        (fun e => (e.outValid, e.outSize, e.q.map (·.size))) = some (true, 8, [7, 4]) := by
  decide +kernel

/-- Section 2.4, the `pop empty` row. -/
theorem test_pop_empty :
    (after .pop { fresh Config.build 4 8 1 16 0 with
        outValid := true, outSize := 8, outDigest := [(0, 1)] }).map
        (fun e => (e.outValid, e.outSize, e.outDigest, e.err)) = some (false, 0, [], .none) := by
  decide +kernel

/-- Section 2.2, `W = 4`: rolling `0x50` evicts `0x10`. -/
theorem test_roll_evicts :
    (after (.roll 0x50) { fresh Config.build 4 8 1 16 0 with
        hash := 0x10203040, win := [(0, 0x10), (1, 0x20), (2, 0x30), (3, 0x40)] }).map
        (fun e => (e.hash, e.cursor, e.win)) =
      some (0x20304050, 1, [(0, 0x50), (1, 0x20), (2, 0x30), (3, 0x40)]) := by decide +kernel

/-- Section 2.2, `W = 1`. -/
theorem test_roll_window_of_one :
    (after (.roll 0xBB) { fresh Config.build 1 8 1 16 0 with hash := 0xAA, win := [(0, 0xAA)] }).map
        (fun e => (e.hash, e.cursor)) = some (0xBB, 0) := by decide +kernel

/-- Section 2.2: `hrst` keeps the cursor; while unconfigured it is `NOT_CONFIGURED`. -/
theorem test_hrst_keeps_cursor :
    (after .hrst { fresh Config.build 4 8 1 16 0 with
        hash := 0x30405060, win := [(0, 0x50), (1, 0x60), (2, 0x30), (3, 0x40)]
        cursor := 2 }).map (fun e => (e.hash, e.win, e.cursor)) = some (0, [], 2) ∧
      (after .hrst Engine.reset).map (·.status) = some 0x300 := by decide +kernel

/-- Section 2.5, last two rows. -/
theorem test_illegal_words :
    (afterWord 0x08 Engine.reset).map (·.status) = some 0x400 ∧
      (afterWord 0x0101 { withRecord Config.build (fresh Config.build 4 8 1 16 0) with
        chunkSize := 1 }).map (fun e => (e.status, e.chunkSize)) = some (0x409, 1) := by
  decide +kernel

/-- 30_encoding.md R94: the first and the last custom opcode, on an engine that is not faulted. -/
theorem test_custom_words_are_refused :
    runWord 0x80 (solo Engine.reset) = .refused .customCommand ∧
      runWord 0xFF (solo Engine.reset) = .refused .customCommand := by
  constructor <;> rfl

/-! ### Host accesses: 95_test_vectors.md sections 2.5 and 2.7 -/

/-- `rd WIN[8]`, `rd OUT_DIGEST` and `rd STATS_DIGEST` (30_encoding.md R98; offsets of 10_state.md R45). -/
theorem test_rd_of_byte_windows :
    let h : HostPort := ⟨0, 0⟩
    [h.rd (.win 8), h.rd .outDigest, h.rd .statsDigest] =
      [.access (readN 0x2008 8), .access (readN 0x100 8), .access (readN 0x180 8)] := by decide

theorem test_byte_window_reads :
    let e := { Engine.reset with outDigest := [(0, 0xD0), (3, 0xD3), (7, 0xD7)] }
    e.hostRead Config.build 0x100 8 = some 0xD7000000D30000D0 ∧
      e.hostRead Config.build 0x103 1 = some 0xD3 := by decide +kernel

theorem test_bus_errors :
    perform (readN 0x001 1) State.reset = .refused .busError ∧
      perform (readN 0x104 4) State.reset = .refused .busError := by
  constructor <;> rfl

theorem test_cfg_flags_keeps_bit_zero :
    (Engine.reset.hostWrite 0x030 0xFFFF).hostRead Config.build 0x030 8 = some 1 ∧
      Engine.reset.hostWrite 0x038 0xFFFF = Engine.reset := by decide +kernel

theorem test_first_commands_run_after_reset :
    [0x00, 0x01, 0x02, 0x103, 0x04, 0x05, 0x06, 0x07].map (fun w =>
        match step (State.reset.withFetchWord 64 w) with
        | .next s => s.engine?.map (·.err)
        | .fault _ => none
        | .refused _ => none) =
      [some .none, some .none, some .notConfigured, some .notConfigured, some .notConfigured,
        some .notConfigured, some .notConfigured, some .notConfigured] := by decide +kernel

/-! ### Witnesses: states and operands that meet the hypotheses of each statement -/

/-- The default options staged. -/
abbrev defaults : Engine := fresh Config.build 64 8192 16384 32768 0

theorem solo_engine (e : Engine) : (solo e).engine? = some e := rfl

theorem three_is_no_power_of_two : ¬ ∃ k, 3 = 2 ^ k := by
  rintro ⟨k, hk⟩
  match k with
  | 0 => simp at hk
  | 1 => simp at hk
  | k + 2 => rw [Nat.pow_succ, Nat.pow_succ] at hk; omega

theorem reset_options_acceptable : acceptable Config.build Engine.reset :=
  ⟨⟨14, by decide⟩, by decide, by decide, by decide⟩

theorem witness_DecodeOfEncode :
    (Instr.nop 0xFF 0xFFFFFFFFFFFF).wf = true ∧ Instr.cfg.wf = true ∧ (Instr.upd 0xFF).wf = true ∧
      (Instr.updp [0]).wf = true ∧ (Instr.updp [1, 2, 3, 4, 5, 6]).wf = true ∧
      Instr.fin.wf = true ∧ Instr.pop.wf = true ∧ (Instr.roll 0).wf = true ∧
      Instr.hrst.wf = true := by decide

theorem witness_EncodeOfDecode : decode 0x0706050403020603 = some (.updp [2, 3, 4, 5, 6, 7]) := by
  decide

theorem witness_StepRunsTheWrittenCommand (k : AccessKind) :
    let a : Access := ⟨0, 0, 0, 8, k⟩
    let s := { solo Engine.reset with pending := [.access a] }
    s.pending = [.access a] ∧ s.instances[a.inst.toNat]? = some ⟨Engine.reset, 0⟩ ∧ a.agent = 0 ∧
      a.off = 0 ∧ a.size = 8 ∧ decode 1 = some .cfg := ⟨rfl, rfl, rfl, rfl, rfl, by decide⟩

theorem witness_CommandTouchesOnlyItsInstance :
    ∃ s', exec .fin (solo defaults) = .next s' := ⟨_, rfl⟩

theorem witness_NopChangesOnlyErr :
    (solo defaults).engine? = some defaults ∧ (0xDEADBEEF00001200 : Word).toNat % 256 = 0 :=
  ⟨rfl, by decide⟩

theorem witness_FaultedEngineIsHalted :
    let e := { defaults with fault := true, err := .countOverflow }
    (solo e).engine? = some e ∧ e.fault = true ∧ readPermitted 0x048 8 = true := ⟨rfl, rfl, rfl⟩

theorem witness_UnconfiguredEngineRefusesCommands :
    (solo Engine.reset).engine? = some Engine.reset ∧ Engine.reset.fault = false ∧
      Engine.reset.configured = false ∧ acceptable Config.build Engine.reset :=
  ⟨rfl, rfl, rfl, reset_options_acceptable⟩

/-- The words of each disjunct, at the boundaries of the counts and of the opcode range. -/
theorem witness_IllegalWordChangesOnlyErr :
    (solo defaults).engine? = some defaults ∧ defaults.fault = false ∧
      ((0x0101 : Nat) % 256 = 1 ∧ 0x0101 / 2 ^ 8 % 256 ≠ 0) ∧
      ((0x10004 : Nat) % 256 = 4 ∧ 0x10004 / 2 ^ 16 ≠ 0) ∧
      ((0xFF0002 : Nat) % 256 = 2 ∧ 0xFF0002 / 2 ^ 16 ≠ 0) ∧
      ((0x003 : Nat) % 256 = 3 ∧ 0x003 / 2 ^ 8 % 256 = 0) ∧
      ((0x703 : Nat) % 256 = 3 ∧ 6 < 0x703 / 2 ^ 8 % 256) ∧
      ((0x1000103 : Nat) % 256 = 3 ∧ 0x1000103 / 2 ^ (16 + 8 * (0x1000103 / 2 ^ 8 % 256)) ≠ 0) ∧
      (0x08 ≤ (0x08 : Nat) % 256 ∧ (0x7F : Nat) % 256 ≤ 0x7F) := ⟨rfl, rfl, by decide⟩

/-- Every outcome of `OutcomeCodes` and `NonFatalErrorsChangeNothingElse` is one a command ends with. -/
theorem witness_OutcomeCodes :
    (Engine.reset.runWord Config.build 0).err = .none ∧
      ((staged 64 0 3 0 0).runWord Config.build 1).err = .cfgAvg ∧
      ((staged 0 0 4 0 0).runWord Config.build 1).err = .cfgWindow ∧
      ((staged 8193 0 4 0 0).runWord Config.build 1).err = .cfgWindow ∧
      ((staged 16 0 4 0 0).runWord constTables 1).err = .cfgWindow ∧
      (Engine.reset.runWord Config.build 4).err = .notConfigured ∧
      (Engine.reset.runWord Config.build 8).err = .illegalCmd ∧
      ((withRecord oneRecord (fresh oneRecord 2 0 1 100 0)).runWord oneRecord 2).err =
        .queueOverflow ∧
      ({ defaults with total := 0xFFFFFFFFFFFFFFFF }.runWord Config.build 2).err = .countOverflow ∧
      ({ defaults with fault := true }.runWord Config.build 0).err = .halted := by decide +kernel

theorem witness_NonFatalErrorsChangeNothingElse :
    ((staged 64 0 3 0 0).runWord Config.build 1).err = .cfgAvg ∧
      (Engine.reset.runWord Config.build 4).err = .notConfigured ∧
      (Engine.reset.runWord Config.build 8).err = .illegalCmd := by decide +kernel

theorem first_byte_no_match (c : Config) (mx : Word) (b : Byte) :
    matchAfter c (fresh c 2 0 1 mx 0) b ≠ 4 := by
  have : (fresh c 2 0 1 mx 0).optZip = false := by
    show (0 &&& 1 : Word).getLsbD 0 = false
    decide
  rw [matchAfter, this]
  exact (by decide : (0 : Nat) ≠ 4)

/-- A fresh engine with `W = 2`, `MIN = 0`, `AVG = 1`, `MAX = 100`: its first byte is a boundary. -/
theorem first_byte_cuts (c : Config) (b : Byte) :
    let e := fresh c 2 0 1 100 0
    ready e ∧ e.total.toNat < 2 ^ 64 - 1 ∧ e.chunkSize.toNat ≤ e.total.toNat ∧ e.actAvg ≠ 0 ∧
      matchAfter c e b ≠ 4 ∧ ¬ skips c e b ∧ isBoundary c e b := by
  refine ⟨⟨rfl, rfl⟩, (by decide : (0 : Word).toNat < 2 ^ 64 - 1), Nat.le_refl _,
    (by decide : (1 : Word) ≠ 0), first_byte_no_match c 100 b, ?_, ?_⟩
  · rintro ⟨h, -⟩
    change 0 + (if c.skipCompare = .post then 1 else 0) + 2 ≤ 0 at h
    omega
  · refine .inr (.inl ⟨Nat.zero_le _, ?_⟩)
    show _ &&& (1 - 1) = 1 - 1
    simp

theorem witness_OutcomePriority :
    ({ defaults with fault := true }.fault = true) ∧ (Engine.reset.fault = false ∧ decode 8 = none) ∧
      (Engine.reset.configured = false ∧ decode 4 = some .fin) ∧ decode 1 = some .cfg ∧
      (¬ ∃ k, (staged 0 0 3 0 0).cfgAvg.toNat = 2 ^ k) ∧
      ((∃ k, (staged 0 0 4 0 0).cfgAvg.toNat = 2 ^ k) ∧ ¬ acceptable Config.build (staged 0 0 4 0 0)) ∧
      (ready { defaults with total := 0xFFFFFFFFFFFFFFFF } ∧ decode 2 = some (.upd 0)) ∧
      (ready (withRecord oneRecord (fresh oneRecord 2 0 1 100 0)) ∧
        oneRecord.qCap = some (withRecord oneRecord (fresh oneRecord 2 0 1 100 0)).q.length ∧
        isBoundary oneRecord (withRecord oneRecord (fresh oneRecord 2 0 1 100 0)) 0) := by
  refine ⟨rfl, ⟨rfl, by decide⟩, ⟨rfl, by decide⟩, by decide, three_is_no_power_of_two,
    ⟨⟨2, by decide⟩, fun h => absurd h.2.1 (by decide)⟩, ⟨⟨rfl, rfl⟩, by decide⟩, ⟨rfl, rfl⟩, rfl, ?_⟩
  exact (first_byte_cuts oneRecord 0).2.2.2.2.2.2

theorem witness_ConfigureChecksOptionsInOrder :
    Engine.reset.fault = false ∧ (¬ ∃ k, (staged 64 0 3 0 0).cfgAvg.toNat = 2 ^ k) ∧
      (∃ k, (staged 0 0 4 0 0).cfgAvg.toNat = 2 ^ k) ∧ (staged 0 0 4 0 0).cfgWindow.toNat = 0 ∧
      Config.build.winCap < (staged 8193 0 4 0 0).cfgWindow.toNat ∧
      (constTables.tableStrategy = .const64 ∧ (staged 16 0 4 0 0).cfgWindow.toNat ≠ 64) ∧
      acceptable Config.build Engine.reset := by
  refine ⟨rfl, three_is_no_power_of_two, ⟨2, by decide⟩, by decide, by decide, ⟨rfl, by decide⟩,
    reset_options_acceptable⟩

theorem witness_ConfigureConstructsEngine :
    (solo Engine.reset).engine? = some Engine.reset ∧ Engine.reset.fault = false ∧
      acceptable Config.build Engine.reset := ⟨rfl, rfl, reset_options_acceptable⟩

theorem witness_StagedOptionsActOnlyThroughConfigure : Instr.fin ≠ .cfg := by decide

theorem witness_OnlyConfigureWritesTables :
    Instr.fin ≠ .cfg ∧ (Engine.reset.run Config.build .cfg).err = .none ∧
      constTables.poly = Config.build.poly := ⟨by decide, by decide +kernel, rfl⟩

theorem witness_TableStrategyIsUnobservable :
    Engine.reset.fault = false ∧ (∃ k, Engine.reset.cfgAvg.toNat = 2 ^ k) ∧
      (Config.build.tableStrategy = .runtime ∧ 1 ≤ Engine.reset.cfgWindow.toNat ∧
        Engine.reset.cfgWindow.toNat ≤ Config.build.winCap) ∧
      (constTables.tableStrategy = .const64 ∧ Engine.reset.cfgWindow = 64) ∧
      (staged 65 8192 16384 32768 0).cfgWindow ≠ 64 :=
  ⟨rfl, ⟨14, by decide⟩, ⟨rfl, by decide, by decide⟩, ⟨rfl, rfl⟩, by decide⟩

theorem witness_ReduceIsLongDivision :
    (0xB : Nat) ≠ 0 ∧ 0xB < 2 ^ 64 ∧ bitlen 0x7 < bitlen 0xB ∧ bitlen 0xB ≤ bitlen 0x8 := by decide

theorem witness_TablesAreLinear :
    ∀ k < 8, Table.entry (dropTable Config.build 64) (BitVec.twoPow 8 k) =
      Table.entry (dropTable constTables 64) (BitVec.twoPow 8 k) := fun _ _ => rfl

/-- At the largest and smallest values of each range. -/
theorem witness_DropTableShape :
    8 * 7 + bitlen (0x7F : Byte).toNat ≤ 63 ∧ ¬ 8 * 7 + bitlen (0x80 : Byte).toNat ≤ 63 ∧
      (0x7F : Byte).toNat < 128 := by decide

theorem witness_RollUpdatesHashWindowAndCursor :
    let e := { fresh Config.build 4 8 1 16 0 with
      hash := 0x10203040, win := [(0, 0x10), (1, 0x20), (2, 0x30), (3, 0x40)], cursor := 3 }
    (solo e).engine? = some e ∧ ready e ∧ Memory.wf e.win = true ∧ e.hash.toNat < 2 ^ 63 ∧
      e.cursor.toNat < e.optW := ⟨rfl, ⟨rfl, rfl⟩, by decide, by decide, by decide⟩

theorem witness_HashResetClearsHashAndWindow :
    (solo defaults).engine? = some defaults ∧ ready defaults ∧
      { defaults with fault := true }.fault = true ∧ Engine.reset.configured = false ∧
      ((0x107 : Word).toNat % 256 = 7 ∧ (0x107 : Word).toNat ≠ 7) :=
  ⟨rfl, ⟨rfl, rfl⟩, rfl, rfl, by decide⟩

theorem fresh_tablesBuilt (c : Config) (w mn av mx z : Word) :
    tablesBuilt c (fresh c w mn av mx z) := ⟨rfl, rfl⟩

theorem fresh_cleared (c : Config) (mn av mx z : Word) : cleared (fresh c 4 mn av mx z) :=
  ⟨rfl, fun _ => rfl, rfl, (by decide : (0 : Word).toNat < (4 : Word).toNat)⟩

theorem witness_RollKeepsHashBelowDegree :
    tablesBuilt Config.build { defaults with hash := 0x7FFFFFFFFFFFFFFF } ∧
      (0x7FFFFFFFFFFFFFFF : Word).toNat < 2 ^ 63 := ⟨⟨rfl, rfl⟩, by decide⟩

theorem witness_HashIsRabinRemainderOfWindow :
    tablesBuilt Config.build (fresh Config.build 4 8 1 16 0) ∧
      cleared (fresh Config.build 4 8 1 16 0) := ⟨⟨rfl, rfl⟩, fresh_cleared ..⟩

theorem witness_HashIsIndependentOfCursor :
    tablesBuilt Config.build (fresh Config.build 4 8 1 16 0) ∧
      cleared (fresh Config.build 4 8 1 16 0) ∧
      (3 : Word).toNat < (fresh Config.build 4 8 1 16 0).optW := ⟨⟨rfl, rfl⟩, fresh_cleared .., by decide⟩

theorem witness_RollingEquivalence :
    tablesBuilt Config.build (fresh Config.build 4 8 1 16 0) ∧
      cleared (fresh Config.build 4 8 1 16 0) ∧
      (fresh Config.build 4 8 1 16 0).optW ≤ ([0x30, 0x40, 0x50, 0x60] : List Byte).length :=
  ⟨⟨rfl, rfl⟩, fresh_cleared .., by decide⟩

/-- Byte 8129 of a chunk with the default options, the last before `S0`, and byte 8130, which is `S0`. -/
theorem witness_BytesBeforeFirstTestedAreSkipped :
    let e := { defaults with chunkSize := 8128, total := 8128 }
    let e' := { defaults with chunkSize := 8129, total := 8129 }
    ((e.account 0x50).zipStep Config.build 0x50).seenZip = false ∧ ready e ∧ ready e' ∧
      e'.total.toNat < 2 ^ 64 - 1 ∧ matchAfter Config.build e 0x50 ≠ 4 ∧
      matchAfter Config.build e' 0x50 ≠ 4 ∧ ¬ e.optMin < e.optW ∧
      e.chunkSize.toNat + 1 < e.optMin - e.optW + 2 ∧
      e'.optMin - e'.optW + 2 ≤ e'.chunkSize.toNat + 1 :=
  ⟨by decide, ⟨rfl, rfl⟩, ⟨rfl, rfl⟩, by decide, by decide, by decide, by decide, by decide, by decide⟩

/-- Byte 8129 of a chunk with the default options, the last that is skipped. -/
theorem witness_SkippedByteIsOnlyCounted :
    let e := { defaults with chunkSize := 8128, total := 8128 }
    (solo e).engine? = some e ∧ ready e ∧ e.total.toNat < 2 ^ 64 - 1 ∧ skips Config.build e 0xFF :=
  ⟨rfl, ⟨rfl, rfl⟩, by decide, by decide, by decide⟩

/-- The first byte of a chunk with `W > MIN`. -/
theorem witness_RolledByteIsCounted :
    let e := fresh Config.build 8 4 1 100 0
    (solo e).engine? = some e ∧ ready e ∧ e.total.toNat < 2 ^ 64 - 1 ∧
      e.chunkSize.toNat ≤ e.total.toNat ∧ e.actAvg ≠ 0 ∧ ¬ skips Config.build e 1 ∧
      ¬ isBoundary Config.build e 1 := by
  refine ⟨rfl, ⟨rfl, rfl⟩, by decide, by decide, by decide, fun h => absurd h.1 (by decide), ?_⟩
  rintro (h | ⟨h, -⟩ | h) <;> exact absurd h (by decide)

/-- One state for each of the three conditions: the signature completed, the hash test, the cap. -/
theorem witness_BoundaryByteCutsChunk :
    (let e := { fresh Config.build 64 8192 16384 32768 1 with
        chunkSize := 3, total := 3, cacc := [0x50, 0x4B, 0x03], zipCnt := 3 };
      (solo e).engine? = some e ∧ ready e ∧ e.total.toNat < 2 ^ 64 - 1 ∧
        e.chunkSize.toNat ≤ e.total.toNat ∧ e.actAvg ≠ 0 ∧ ¬ skips Config.build e 0x04 ∧
        isBoundary Config.build e 0x04) ∧
      (let e := fresh Config.build 2 0 1 100 0;
        (solo e).engine? = some e ∧ ready e ∧ ¬ skips Config.build e 1 ∧
          isBoundary Config.build e 1) ∧
      (let e := fresh Config.build 8 4 0x100000 0 0;
        (solo e).engine? = some e ∧ ready e ∧ ¬ skips Config.build e 1 ∧
          e.optMax ≤ e.chunkSize.toNat + 1 ∧ isBoundary Config.build e 1) := by
  refine ⟨⟨rfl, ⟨rfl, rfl⟩, by decide, by decide, by decide,
    fun h => absurd h.2 (by decide), .inl (by decide)⟩, ?_, ?_⟩
  · have h := first_byte_cuts Config.build 1
    exact ⟨rfl, ⟨rfl, rfl⟩, h.2.2.2.2.2.1, h.2.2.2.2.2.2⟩
  · exact ⟨rfl, ⟨rfl, rfl⟩, fun h => absurd h.1 (by decide), by decide, .inr (.inr (by decide))⟩

theorem witness_CountOverflowStopsEngine :
    let e := { defaults with total := 0xFFFFFFFFFFFFFFFF }
    (solo e).engine? = some e ∧ ready e ∧ e.total.toNat = 2 ^ 64 - 1 := ⟨rfl, ⟨rfl, rfl⟩, by decide⟩

theorem witness_QueueOverflowStopsEngine :
    let e := withRecord oneRecord (fresh oneRecord 2 0 1 100 0)
    ready e ∧ oneRecord.qCap = some e.q.length ∧ e.total.toNat < 2 ^ 64 - 1 ∧
      e.chunkSize.toNat ≤ e.total.toNat ∧ e.actAvg ≠ 0 ∧ ¬ skips oneRecord e 0 ∧
      isBoundary oneRecord e 0 ∧ { e with chunkSize := 1 }.chunkSize ≠ 0 ∧
      Config.build.qCap = none := by
  have h := first_byte_cuts oneRecord 0
  exact ⟨⟨rfl, rfl⟩, rfl, h.2.1, h.2.2.1, h.2.2.2.1, h.2.2.2.2.2.1, h.2.2.2.2.2.2, by decide, rfl⟩

theorem witness_PackedUpdateIsByteUpdatesInOrder :
    (defaults.cmdUpd Config.build 1).fault = false ∧ ([2] : List Byte) ≠ [] ∧
      ({ defaults with total := 0xFFFFFFFFFFFFFFFF }.cmdUpd Config.build 1).fault = true ∧
      { defaults with total := 0xFFFFFFFFFFFFFFFF }.fault = false ∧
      { defaults with fault := true }.fault = true ∧ Engine.reset.configured = false :=
  ⟨by decide +kernel, by decide, by decide +kernel, rfl, rfl, rfl⟩

theorem witness_PackedUpdateFeedsEveryByte :
    let e := { defaults with total := 0xFFFFFFFFFFFFFFF9 }
    let bytes : List Byte := [1, 2, 3, 4, 5, 6]
    (solo e).engine? = some e ∧ ready e ∧ Instr.wf (.updp bytes) = true ∧
      e.total.toNat + bytes.length ≤ 2 ^ 64 - 1 := ⟨rfl, ⟨rfl, rfl⟩, rfl, by decide⟩

theorem witness_SliceBoundariesHaveNoEffect :
    let slices : List (List Byte) := [[1, 2], [3]]
    (∀ l ∈ slices, l ≠ []) ∧
      (defaults.runAll Config.build (slices.flatten.map .upd)).fault = false :=
  ⟨by decide, by decide +kernel⟩

/-- A freshly configured engine with legal options meets the invariant of its build. -/
theorem fresh_inv (c : Config) (w mn av mx z : Word) (hw : 1 ≤ w.toNat ∧ w.toNat ≤ c.winCap)
    (hc : c.tableStrategy = .const64 → w.toNat = 64) (ha : ∃ k, av.toNat = 2 ^ k)
    (hz : z = 0 ∨ z = 1) : (fresh c w mn av mx z).Inv c where
  cfgFlags := hz
  memories := ⟨rfl, rfl, rfl⟩
  faultCode := by simp [fresh, staged, Engine.construct, Engine.latchOptions, Engine.buildTables,
    Engine.engineReset, Engine.reset]
  unconfigured := fun h => nomatch h
  configured := fun _ => {
    options := {
      window := hw
      const64 := hc
      average := ha
      flags := by
        show z &&& 1 = 0 ∨ z &&& 1 = 1
        rcases hz with rfl | rfl <;> decide }
    tables := ⟨rfl, rfl⟩
    cursor := hw.1
    hash := (by decide : (0 : Word).toNat < 2 ^ 63)
    chunkBytes := rfl
    streamBytes := rfl
    counters := Nat.le_refl _
    zipCnt := fun _ => Nat.zero_le _
    zipOff := fun _ => rfl
    unfinished := fun _ => by
      refine Nat.lt_of_lt_of_le ?_ (Nat.le_max_left _ _)
      show 0 < Engine.firstTested c _
      unfold Engine.firstTested
      split
      · split <;> omega
      · omega
    records := fun _ h => nomatch h
    queue := fun _ _ => Nat.zero_le _
    window := fun _ h => nomatch h }

theorem first_inv (mx : Word) : (fresh Config.build 2 0 1 mx 0).Inv Config.build :=
  fresh_inv _ _ _ _ _ _ ⟨by decide, by decide⟩ (by decide) ⟨0, by decide⟩ (.inl rfl)

/-- One engine with `S0 <= MAX` and `MIN <= MAX`, one with `MAX < S0`; the first byte of each cuts. -/
theorem witness_ChunkSizeBounds (mx : Word) (h : mx = 100 ∨ mx = 0) :
    let e := fresh Config.build 2 0 1 mx 0
    e.Inv Config.build ∧ ready e ∧ matchAfter Config.build e 1 ≠ 4 ∧
      (e.cmdUpd Config.build 1).q = e.q ++ [⟨1, (Config.build.chunkDigest [1]).toList⟩] ∧
      (mx = 100 → e.optMin ≤ e.optMax ∧ e.firstTested Config.build ≤ e.optMax) ∧
      (mx = 0 → e.optMax < e.firstTested Config.build) := by
  refine ⟨first_inv mx, ⟨rfl, rfl⟩, first_byte_no_match _ mx 1, ?_, ?_, ?_⟩
  · rcases h with rfl | rfl <;> rfl
  · rintro rfl; decide
  · rintro rfl; decide

theorem witness_RecordsPartitionTheStream :
    let e := fresh Config.build 2 0 1 100 0
    let is : List Instr := [.updp [1, 2], .roll 3, .upd 4, .hrst]
    e.configured = true ∧ e.total = 0 ∧ e.chunkSize = 0 ∧ e.cacc = [] ∧ e.sacc = [] ∧
      (∀ i ∈ is, i ≠ .cfg ∧ i ≠ .fin ∧ i ≠ .pop) ∧
      (e.runAll Config.build (is ++ [.fin])).fault = false :=
  ⟨rfl, rfl, rfl, rfl, rfl, by decide, by decide +kernel⟩

theorem witness_FinalizeClosesStream :
    (solo defaults).engine? = some defaults ∧ ready defaults := ⟨rfl, rfl, rfl⟩

theorem witness_PopMovesOldestRecord :
    let e := withRecord Config.build defaults
    (solo e).engine? = some e ∧ ready e ∧ e.q = [⟨8, (Config.build.chunkDigest []).toList⟩] ∧
      ready defaults ∧ defaults.q = [] ∧ { e with fault := true }.fault = true ∧
      Engine.reset.configured = false ∧ ((0x105 : Word).toNat % 256 = 5 ∧ (0x105 : Word).toNat ≠ 5) :=
  ⟨rfl, ⟨rfl, rfl⟩, rfl, ⟨rfl, rfl⟩, rfl, rfl, rfl, by decide⟩

theorem witness_DrainReturnsRecordsInOrder :
    let e := withRecord Config.build defaults
    ready e ∧ ∀ r ∈ e.q, r.digest.length = Config.build.dlC := by
  refine ⟨⟨rfl, rfl⟩, fun r hr => ?_⟩
  simp only [withRecord, List.mem_singleton] at hr
  simp [hr]

theorem witness_PopCommutesWithUpdate :
    let e := withRecord Config.build defaults
    Config.build.qCap = none ∧ e.q ≠ [] ∧ e.total.toNat < 2 ^ 64 - 1 :=
  ⟨rfl, by simp [withRecord], by decide⟩

/-- The last byte of the window and the first address after it. -/
theorem witness_WindowAddressesNameInstanceAndOffset :
    (0 : BitVec 4).toNat < Config.build.nInst ∧
      locate Config.build (Config.build.devBase + 0x3FFF) = some (0, 0x3FFF) ∧
      locate Config.build (Config.build.devBase + 0x4000) = none := by
  refine ⟨by decide, ?_, ?_⟩ <;>
    simp [locate, show Config.build.nInst = 1 from rfl]

theorem witness_OnlyPermittedAccessesAreAnswered (a : Access) (h : a ∈ [readN 0x038 8, readN 0x3FFF 1,
      readN 0x1FF 1, readN 0x200 1, readN 0x104 4, write8 0x010 5, write8 0x011 5,
      write8 0 0x7F]) :
    let s := { solo defaults with pending := [.access a] }
    s.pending = [.access a] ∧ s.instances[a.inst.toNat]? = some ⟨defaults, 0⟩ ∧ a.agent = 0 := by
  simp only [List.mem_cons, List.not_mem_nil, or_false] at h
  rcases h with rfl | rfl | rfl | rfl | rfl | rfl | rfl | rfl <;> exact ⟨rfl, rfl, rfl⟩

theorem witness_WritesOutsideCmdOnlyStageOptions :
    let s := { solo defaults with pending := [.access (write8 0x030 0xFF)] }
    s.instances[(write8 0x030 0xFF).inst.toNat]? = some ⟨defaults, 0⟩ ∧
      (write8 0x030 0xFF).off.toNat % 8 = 0 ∧ (write8 0x030 0xFF).off.toNat ≠ 0 ∧
      ∃ s', step { solo defaults with pending := [.access (readN 0x038 8)] } = .next s' :=
  ⟨rfl, by decide, by decide, _, rfl⟩

/-- The first and the last offset of each byte window. -/
theorem witness_ByteReadsAgreeWithWordReads :
    (0x100 ≤ 0x100 ∧ 0x1FF < 0x200) ∧ (0x2000 ≤ 0x2000 ∧ 0x3FFF < 0x4000) := by decide

/-- The first and the last aligned offset of each byte window and of each reserved range. -/
theorem witness_RegisterMap :
    (∀ off ∈ [0x100, 0x1F8, 0x2000, 0x3FF8], off % 8 = 0 ∧
      ((0x100 ≤ off ∧ off < 0x200) ∨ (0x2000 ≤ off ∧ off < 0x4000))) ∧
    ∀ off ∈ [0x078, 0x088, 0x0B8, 0x0F8, 0x200, 0x7F8, 0x1800, 0x1FF8], off % 8 = 0 ∧
      ((0x078 ≤ off ∧ off < 0x090) ∨ (0x0B8 ≤ off ∧ off < 0x100) ∨ (0x200 ≤ off ∧ off < 0x800) ∨
        (0x1800 ≤ off ∧ off < 0x2000)) := by decide

theorem witness_TableEntriesAreReadable :
    defaults.configured = true ∧ tablesBuilt Config.build defaults ∧
      Engine.reset.configured = false := ⟨rfl, ⟨rfl, rfl⟩, rfl⟩

theorem witness_OnlyPowerOnClearsFault :
    let e := { defaults with fault := true }
    let s := { solo e with pending := [.access (write8 0 4)] }
    (∃ s', step s = .next s') ∧ s.instances[0]? = some ⟨e, 0⟩ ∧
      s.pending.head? ≠ some .powerOnReset ∧ e.fault = true ∧ e.configured = true ∧
      { s with pending := [.powerOnReset] }.pending = [.powerOnReset] :=
  ⟨⟨_, rfl⟩, rfl, by decide, rfl, rfl, rfl⟩

/-- The first and the last reserved opcode, a bad `cfg`, and the first and the last custom opcode, each on
an engine that is faulted and on one that is not. -/
theorem witness_IllegalWordsAreReportedOrRefused (f : Bool) (w : Word)
    (h : w ∈ [0x08, 0x7F, 0x101, 0x80, 0xFF]) :
    let e := { defaults with fault := f }
    let s := { solo e with pending := [.access (write8 0 w)] }
    s.instances[(write8 0 w).inst.toNat]? = some ⟨e, 0⟩ ∧ (write8 0 w).agent = 0 ∧
      (write8 0 w).off = 0 ∧ (write8 0 w).size = 8 ∧ (write8 0 w).kind = .write w ∧
      decode w = none := by
  refine ⟨rfl, rfl, rfl, rfl, rfl, ?_⟩
  simp only [List.mem_cons, List.not_mem_nil, or_false] at h
  rcases h with rfl | rfl | rfl | rfl | rfl <;> decide

theorem witness_ForeignAccessesStop :
    (solo defaults).instances.length ≤ (1 : BitVec 4).toNat ∧
      (solo defaults).instances[(0 : BitVec 4).toNat]? = some ⟨defaults, 0⟩ ∧
      ({ write8 0 1 with agent := 7 } : Access).agent ≠ 0 := ⟨by decide, rfl, by decide⟩

theorem witness_AccessesToDifferentInstancesCommute :
    let s := { State.reset with instances := [⟨Engine.reset, 0⟩, ⟨Engine.reset, 0⟩] }
    let a := write8 0 1
    let b := { write8 0x010 4 with inst := 1 }
    a.inst ≠ b.inst ∧ ∃ s1 s2, perform a s = .next s1 ∧ perform b s1 = .next s2 :=
  ⟨by decide, _, _, rfl, rfl⟩

/-- A configured device about to be fed a byte that cuts. -/
theorem witness_StepKeepsInvariant :
    let s := { solo (fresh Config.build 2 0 1 100 0) with pending := [.access (write8 0 0x0102)] }
    s.Inv ∧ ∃ s', step s = .next s' := by
  refine ⟨fun p hp => ?_, _, rfl⟩
  simp only [solo, List.mem_singleton] at hp
  subst hp
  exact first_inv 100

theorem witness_StepKeepsHashOfWindow :
    let s := { solo (fresh Config.build 2 0 1 100 0) with pending := [.access (write8 0 0x0102)] }
    s.Inv ∧ s.HashInv ∧ ∃ s', step s = .next s' := by
  refine ⟨witness_StepKeepsInvariant.1, fun p hp => ?_, _, rfl⟩
  simp only [solo, List.mem_singleton] at hp
  subst hp
  rfl

end Sys2Proof.Tests
end

section
/-! PROOFS. The rolling hash as a Rabin remainder (41_rolling_hash.md R131, R139, R140): what one
`Roll` does to the window read oldest first, and to the remainder of that window. -/

namespace Sys2Proof.Machine

open Sys2Proof.Spec

/-! ### Big-endian numbers -/

/-- Appending a byte shifts the number up by one byte. -/
theorem bigEndian_append_singleton (s : List Byte) (b : Byte) :
    bigEndian (s ++ [b]) = (bigEndian s <<< 8) ^^^ b.toNat := by
  have low (i : Nat) (hi : 8 ≤ i) : b.toNat.testBit i = false :=
    Nat.testBit_lt_two_pow (b.isLt.trans_le (Nat.pow_le_pow_right (by norm_num) hi))
  rw [bigEndian, List.foldl_append, ← bigEndian]
  show (bigEndian s <<< 8) + b.toNat = _
  rw [Nat.shiftLeft_add_eq_or_of_lt b.isLt]
  refine Nat.eq_of_testBit_eq fun i => ?_
  by_cases hi : 8 ≤ i <;> simp [hi, low]

/-- The oldest byte of a sequence is the top byte of its number. -/
theorem bigEndian_cons (a : Byte) (s : List Byte) :
    bigEndian (a :: s) = (a.toNat <<< (8 * s.length)) ^^^ bigEndian s := by
  induction s using List.reverseRecOn with
  | nil => simp [bigEndian]
  | append_singleton s b ih =>
    rw [← List.cons_append, bigEndian_append_singleton, ih, bigEndian_append_singleton,
      xor_shiftLeft, ← Nat.shiftLeft_add, Nat.xor_assoc, List.length_append, List.length_singleton,
      Nat.mul_add]

/-- A sequence of zero bytes is the number 0. -/
theorem bigEndian_replicate_zero (n : Nat) : bigEndian (List.replicate n 0) = 0 := by
  induction n with
  | zero => rfl
  | succ n ih => rw [List.replicate_succ', bigEndian_append_singleton, ih]; rfl

/-! ### The hash of one roll -/

/-- `reduce(value, POLY)` as a number is the remainder modulo `POLY`. -/
@[simp] theorem toNat_reduce_poly (c : Config) (v : Nat) :
    (reduce v c.poly.toNat).toNat = polyRem c v := by
  rw [← reducePoly_eq_reduce, toNat_reducePoly]

theorem toNat_rabinRem (c : Config) (s : List Byte) :
    (rabinRem c s).toNat = polyRem c (bigEndian s) := toNat_reduce_poly c _

@[simp] theorem polyRem_zero (c : Config) : polyRem c 0 = 0 := polyRem_of_lt (by norm_num)

/-- The bits of a shift that are left below bit 63 once the top byte is cancelled
(40_polynomial_table.md R113). -/
def keptByShift (h : Nat) : Nat :=
  (h <<< 8) % 2 ^ 64 ^^^ (((h >>> 55) % 2 ^ 8) <<< 63) % 2 ^ 64

theorem testBit_keptByShift (h i : Nat) :
    (keptByShift h).testBit i = (decide (8 ≤ i ∧ i < 63) && h.testBit (i - 8)) := by
  simp only [keptByShift, Nat.testBit_xor, Nat.testBit_mod_two_pow, Nat.testBit_shiftLeft,
    Nat.testBit_shiftRight]
  rcases Nat.lt_trichotomy i 63 with hi | rfl | hi
  · simp [hi, show ¬63 ≤ i by omega, show i < 64 by omega]
  · simp
  · simp [show ¬i < 64 by omega, show ¬i < 63 by omega]

theorem keptByShift_lt (h : Nat) : keptByShift h < 2 ^ 63 :=
  Nat.lt_pow_two_of_testBit _ fun i hi => by
    simp [testBit_keptByShift, show ¬i < 63 by omega]

/-- A shift of a hash below `2^63` is its top byte at bit 63 and the bits below. -/
theorem shiftLeft_eq_top_xor_kept {h : Nat} (hh : h < 2 ^ 63) :
    h <<< 8 = (((h >>> 55) % 2 ^ 8) <<< 63) ^^^ keptByShift h := by
  refine Nat.eq_of_testBit_eq fun i => ?_
  simp only [Nat.testBit_xor, testBit_keptByShift, Nat.testBit_shiftLeft, Nat.testBit_mod_two_pow,
    Nat.testBit_shiftRight]
  by_cases h63 : 63 ≤ i
  · rw [show 55 + (i - 63) = i - 8 by omega]
    by_cases h71 : i - 63 < 8
    · simp [h63, h71, show ¬i < 63 by omega, show 8 ≤ i by omega]
    · have : h.testBit (i - 8) = false := Nat.testBit_lt_two_pow
        (hh.trans_le (Nat.pow_le_pow_right (by norm_num) (by omega)))
      simp [this]
  · simp [h63, show i < 63 by omega]

/-- The remainder of a shifted hash, as the shift table corrects it. -/
theorem polyRem_shiftLeft_eight {h : Nat} (c : Config) (hh : h < 2 ^ 63) :
    polyRem c (h <<< 8) = polyRem c (((h >>> 55) % 2 ^ 8) <<< 63) ^^^ keptByShift h := by
  rw [shiftLeft_eq_top_xor_kept hh, polyRem_xor, polyRem_of_lt (keptByShift_lt h)]

/-- What a roll needs of an engine: its tables, its cursor in the window, a HASH below `2^63` and a
window memory in canonical form (40_polynomial_table.md R118; 10_state.md R44). -/
structure Engine.Rolling (c : Config) (e : Engine) : Prop where
  tables : tablesBuilt c e
  cursor : e.cursor.toNat < e.optW
  hash : e.hash.toNat < 2 ^ 63
  win : Memory.wf e.win = true

section Roll

variable {c : Config} {e : Engine} (b : Byte)

@[simp] theorem Engine.roll_optW : (e.roll b).optW = e.optW := rfl

/-- 41_rolling_hash.md R131: HASH after a roll is the remainder of the old HASH moved up one byte,
with the new byte put in and the evicted byte taken out. -/
theorem Engine.toNat_roll_hash (h : e.Rolling c) :
    (e.roll b).hash.toNat = polyRem c ((e.hash.toNat <<< 8) ^^^ b.toNat ^^^
      ((Memory.read e.win e.cursor.toNat).toNat <<< (8 * e.optW))) := by
  have regroup (x y z s t : Nat) : x ^^^ y ^^^ z ^^^ (s ^^^ t) = s ^^^ (x ^^^ t) ^^^ y ^^^ z := by
    ac_rfl
  have hb : polyRem c b.toNat = b.toNat := polyRem_of_lt (b.isLt.trans (by norm_num))
  have hbw : b.toWord.toNat = b.toNat := BitVec.toNat_setWidth_of_le (by norm_num)
  obtain ⟨hs, hd⟩ := h.tables
  rw [polyRem_xor, polyRem_xor, polyRem_shiftLeft_eight c h.hash, hb, keptByShift,
    Engine.roll_hash, hs, hd, shiftTable_entry, dropTable_entry]
  simp only [BitVec.toNat_xor, BitVec.toNat_shiftLeft, toNat_reduce_poly, BitVec.extractLsb'_toNat,
    BitVec.toNat_ofNat, hbw, regroup]

/-- 41_rolling_hash.md R139. -/
theorem Engine.roll_hash_lt (h : e.Rolling c) : (e.roll b).hash.toNat < 2 ^ 63 := by
  rw [Engine.toNat_roll_hash b h]
  exact polyRem_lt c _

/-- The cursor moves on by one place round the window. -/
theorem Engine.toNat_roll_cursor (h : e.cursor.toNat < e.optW) :
    (e.roll b).cursor.toNat = (e.cursor.toNat + 1) % e.optW := by
  have hw : e.optW < 2 ^ 64 := e.actWindow.isLt
  rw [Engine.roll_cursor, BitVec.toNat_umod, BitVec.toNat_add]
  show (e.cursor.toNat + 1) % 2 ^ 64 % e.optW = _
  rw [Nat.mod_eq_of_lt (a := _ + 1) (b := 2 ^ 64) (by omega)]

theorem Engine.roll_cursor_lt (h : e.cursor.toNat < e.optW) : (e.roll b).cursor.toNat < e.optW := by
  rw [Engine.toNat_roll_cursor b h]
  exact Nat.mod_lt _ (by omega)

/-- A roll keeps what a roll needs. -/
theorem Engine.Rolling.roll (h : e.Rolling c) : (e.roll b).Rolling c where
  tables := h.tables
  cursor := Engine.roll_cursor_lt b h.cursor
  hash := Engine.roll_hash_lt b h
  win := Memory.wf_write h.win _ _

/-! ### The window of one roll -/

@[simp] theorem Engine.length_windowBytes : e.windowBytes.length = e.optW := by
  simp [Engine.windowBytes]

theorem Engine.getElem_windowBytes {k : Nat} (hk : k < e.windowBytes.length) :
    e.windowBytes[k] = Memory.read e.win ((e.cursor.toNat + k) % e.optW) := by
  simp [Engine.windowBytes]

/-- The window read oldest first starts with the byte under the cursor. -/
theorem Engine.windowBytes_eq_cons (h : e.cursor.toNat < e.optW) :
    e.windowBytes = Memory.read e.win e.cursor.toNat :: e.windowBytes.tail := by
  have hlen : 0 < e.windowBytes.length := by rw [Engine.length_windowBytes]; omega
  have hhead := Engine.getElem_windowBytes hlen
  rw [Nat.add_zero, Nat.mod_eq_of_lt h] at hhead
  rw [← hhead, ← List.drop_one, List.getElem_cons_drop hlen, List.drop_zero]

/-- Going on from a place in the window by fewer than `W` places never comes back to it. -/
theorem add_mod_ne_self {i k w : Nat} (hi : i < w) (hk : 0 < k) (hkw : k < w) :
    (i + k) % w ≠ i := by
  rcases Nat.lt_or_ge (i + k) w with hlt | hge
  · rw [Nat.mod_eq_of_lt hlt]; omega
  · rw [Nat.mod_eq_sub_mod hge, Nat.mod_eq_of_lt (by omega)]; omega

/-- 41_rolling_hash.md R140: a roll drops the oldest byte of the window and appends the new one. -/
theorem Engine.windowBytes_roll (h : e.cursor.toNat < e.optW) (hwf : Memory.wf e.win = true) :
    (e.roll b).windowBytes = e.windowBytes.tail ++ [b] := by
  refine List.ext_getElem (by simp; omega) fun k hk _ => ?_
  rw [Engine.length_windowBytes, Engine.roll_optW] at hk
  rw [Engine.getElem_windowBytes, Engine.toNat_roll_cursor b h, Engine.roll_optW, Engine.roll_win,
    Nat.mod_add_mod, Memory.read_write hwf, Nat.add_right_comm, Nat.add_assoc]
  by_cases hlast : k + 1 = e.optW
  · rw [hlast, Nat.add_mod_right, Nat.mod_eq_of_lt h, if_pos rfl,
      List.getElem_append_right (by simp; omega)]
    simp
  · rw [if_neg (add_mod_ne_self h (by omega) (by omega)), List.getElem_append_left (by simp; omega),
      List.getElem_tail, Engine.getElem_windowBytes]

/-- 41_rolling_hash.md R140: rolling keeps HASH the remainder of the window. -/
theorem Engine.HashIsWindowRem.roll (hr : e.Rolling c) (h : e.HashIsWindowRem c) :
    (e.roll b).HashIsWindowRem c := by
  have cancel (x t y : Nat) : x ^^^ t ^^^ y ^^^ x = t ^^^ y := by
    rw [Nat.xor_assoc x, Nat.xor_comm x, Nat.xor_assoc, Nat.xor_self, Nat.xor_zero]
  have hlen : 8 * e.windowBytes.tail.length + 8 = 8 * e.optW := by
    have := hr.cursor
    simp only [List.length_tail, Engine.length_windowBytes]
    omega
  have hshift := congrArg (bigEndian · <<< 8) (Engine.windowBytes_eq_cons hr.cursor)
  simp only [bigEndian_cons, xor_shiftLeft, ← Nat.shiftLeft_add, hlen] at hshift
  refine BitVec.eq_of_toNat_eq ?_
  rw [Engine.toNat_roll_hash b hr, toNat_rabinRem, Engine.windowBytes_roll b hr.cursor hr.win,
    bigEndian_append_singleton, h, toNat_rabinRem, polyRem_xor, polyRem_xor, polyRem_shiftLeft,
    hshift]
  simp only [polyRem_xor, cancel]

/-- A cleared HASH is the remainder of a cleared window, wherever the cursor stands. -/
theorem Engine.hashIsWindowRem_of_clear (hh : e.hash = 0) (hw : e.win = []) :
    e.HashIsWindowRem c := by
  have hz : e.windowBytes = List.replicate e.optW 0 := by
    simp [Engine.windowBytes, hw, Memory.read, List.map_const']
  refine BitVec.eq_of_toNat_eq ?_
  rw [toNat_rabinRem, hz, bigEndian_replicate_zero, polyRem_zero, hh]
  rfl

end Roll

end Sys2Proof.Machine
end

section
/-! PROOFS. The invariant of an engine (10_state.md R44) under every operation a command is made of,
and under every command and host write. -/

namespace Sys2Proof.Machine

open Sys2Proof.Spec

/-! ### What CONFIGURE accepts -/

/-- The average test of `CheckConfig()` (42_chunker.md R151) is the test for a power of two. -/
theorem average_check_iff (x : Word) :
    (x = 0 ∨ x &&& (x - 1) ≠ 0) ↔ ¬∃ k, x.toNat = 2 ^ k := by
  have hpow := Nat.ne_zero_and_sub_one_eq_zero_iff_isPowerOfTwo (n := x.toNat)
  rw [Nat.isPowerOfTwo] at hpow
  by_cases hx : x = 0
  · subst hx
    exact ⟨fun _ => hpow.not.mp (by simp), fun _ => .inl rfl⟩
  · have hpos : x.toNat ≠ 0 := fun h => hx (BitVec.eq_of_toNat_eq h)
    have hand : x &&& (x - 1) = 0 ↔ x.toNat &&& (x.toNat - 1) = 0 := by
      rw [← BitVec.toNat_inj, BitVec.toNat_and, BitVec.toNat_sub_of_le]
      · rfl
      · exact BitVec.le_def.mpr (Nat.one_le_iff_ne_zero.mpr hpos)
    rw [← hpow]
    simp only [hx, hpos, hand, false_or, ne_eq, not_false_eq_true, true_and]

/-- `CheckConfig()` passes exactly the acceptable options (42_chunker.md R151). -/
theorem Engine.checkConfig_eq_none_iff {c : Config} {e : Engine} :
    e.checkConfig c = none ↔ acceptable c e := by
  have hw : e.cfgWindow = 0 ↔ e.cfgWindow.toNat = 0 := (BitVec.toNat_inj (y := 0)).symm
  have h64 : e.cfgWindow = 64 ↔ e.cfgWindow.toNat = 64 := (BitVec.toNat_inj (y := 64)).symm
  unfold Engine.checkConfig acceptable
  split_ifs with h1 h2 h3
  · exact iff_of_false nofun fun h => (average_check_iff _).mp h1 h.1
  · refine iff_of_false nofun fun ⟨_, hpos, hcap, _⟩ => ?_
    rcases h2 with h0 | hlt
    · exact absurd (hw.mp h0) (Nat.one_le_iff_ne_zero.mp hpos)
    · exact absurd hcap (Nat.not_le.mpr hlt)
  · exact iff_of_false nofun fun h => h3.2 (h64.mpr (h.2.2.2 h3.1))
  · obtain ⟨hpos, hcap⟩ := not_or.mp h2
    refine iff_of_true rfl ⟨not_not.mp (mt (average_check_iff _).mpr h1), ?_, Nat.not_lt.mp hcap,
      fun hs => ?_⟩
    · exact Nat.one_le_iff_ne_zero.mpr (mt hw.mpr hpos)
    · by_contra h
      exact h3 ⟨hs, mt h64.mp h⟩

/-- `CheckConfig()` raises one of two outcomes, neither of them fatal (60_exceptions.md R221). -/
theorem Engine.checkConfig_eq_some {c : Config} {e : Engine} {r : ErrCode}
    (h : e.checkConfig c = some r) : r = .cfgAvg ∨ r = .cfgWindow := by
  unfold Engine.checkConfig at h
  split_ifs at h <;> simp_all

/-- FINALIZE's updates in one record (43_output.md R190). -/
theorem Engine.closeStream_eq (c : Config) (e : Engine) :
    e.closeStream c =
      { e with
        q := if e.chunkSize ≠ 0 then e.q ++ [e.currentChunk c] else e.q
        sacc := [], total := 0, hash := 0, chunkSize := 0, zipCnt := 0, win := [], cacc := []
        statsSize := e.total
        statsDigest := Memory.ofBytes (c.streamDigest e.sacc).toList
        statsValid := true } := by
  unfold Engine.closeStream
  split_ifs <;> rfl

variable {c : Config} {e : Engine}

/-! ### `Live` under the operations of the byte step -/

/-- An outcome that is no fatal fault writes `ERR` only. -/
theorem Engine.raise_of_not_fatal {r : ErrCode} (h : r.fatal = false) (e : Engine) :
    e.raise r = { e with err := r } := by
  simp [Engine.raise, h]

theorem Engine.firstTested_pos (c : Config) (e : Engine) : 1 ≤ e.firstTested c := by
  unfold Engine.firstTested
  split
  · split <;> omega
  · exact le_rfl

/-- `Live` but for the bounds on the match counter and on the unfinished chunk, which it asks only of
an engine that is not faulted. -/
abbrev Engine.LiveUnbounded (c : Config) (e : Engine) : Prop :=
  ({ e with fault := true } : Engine).Live c

theorem Engine.Live.unbounded (h : e.Live c) : e.LiveUnbounded c :=
  { h with options := { h.options with }, zipCnt := nofun, unfinished := nofun }

theorem Engine.LiveUnbounded.live (h : e.LiveUnbounded c) (hz : e.zipCnt.val ≤ 3)
    (hu : e.chunkSize.toNat < max (e.firstTested c) e.optMax) : e.Live c :=
  { h with options := { h.options with }, zipCnt := fun _ => hz, unfinished := fun _ => hu }

/-- A fault leaves nothing of `Live` to bound. -/
theorem Engine.LiveUnbounded.raise_fatal (h : e.LiveUnbounded c) {r : ErrCode}
    (hr : r.fatal = true) : (e.raise r).Live c :=
  have hf : (e.raise r).fault = true := by simp [hr]
  { h with
    options := { h.options with }
    zipCnt := fun h' => nomatch hf.symm.trans h'
    unfinished := fun h' => nomatch hf.symm.trans h' }

/-- `Live` does not speak of `ERR`, and asks less of a faulted engine. -/
theorem Engine.Live.raise (h : e.Live c) (r : ErrCode) : (e.raise r).Live c :=
  { h with
    options := { h.options with }
    zipCnt := fun hf => h.zipCnt (Bool.or_eq_false_iff.mp hf).1
    unfinished := fun hf => h.unfinished (Bool.or_eq_false_iff.mp hf).1 }

theorem Engine.LiveUnbounded.rolling (h : e.LiveUnbounded c) (hwf : Memory.wf e.win = true) :
    e.Rolling c := ⟨h.tables, h.cursor, h.hash, hwf⟩

theorem zipAdvance_of_disabled {cnt : Fin 5} {enabled : Bool} (b : Byte) (he : enabled = false)
    (h : cnt = 0) : zipAdvance c enabled cnt b = 0 := by
  rw [he, zipAdvance_disabled, h]

/-- The chunk's byte counter does not wrap while TOTAL can still count (10_state.md R28, R29). -/
theorem Engine.LiveUnbounded.toNat_chunkSize_succ (h : e.LiveUnbounded c)
    (ht : e.total.toNat ≠ 2 ^ 64 - 1) : (e.chunkSize + 1).toNat = e.chunkSize.toNat + 1 := by
  have hle : e.chunkSize.toNat ≤ e.total.toNat := h.counters
  have htotal : e.total.toNat < 2 ^ 64 := e.total.isLt
  exact BitVec.toNat_add_of_lt (show _ + 1 < _ by omega)

/-- The counters and accumulators may change together. -/
theorem Engine.LiveUnbounded.with_counters (h : e.LiveUnbounded c) {n t : Word} {ca sa : List Byte}
    {z : Fin 5} (hca : ca.length = n.toNat) (hsa : sa.length = t.toNat) (hle : n.toNat ≤ t.toNat)
    (hz : e.optZip = false → z = 0) :
    Engine.LiveUnbounded c { e with chunkSize := n, total := t, cacc := ca, sacc := sa, zipCnt := z } :=
  { h with
    options := { h.options with }
    chunkBytes := hca
    streamBytes := hsa
    counters := hle
    zipCnt := nofun
    zipOff := hz
    unfinished := nofun }

/-- Accounting, matching and counting a byte (42_chunker.md R161, R162, R165). -/
theorem Engine.LiveUnbounded.count (h : e.LiveUnbounded c) (b : Byte)
    (ht : e.total.toNat ≠ 2 ^ 64 - 1) : (e.afterMatch c b).countByte.LiveUnbounded c := by
  have htotal : e.total.toNat < 2 ^ 64 := e.total.isLt
  have hsize : (e.chunkSize + 1).toNat = e.chunkSize.toNat + 1 := h.toNat_chunkSize_succ ht
  have htot : (e.total + 1).toNat = e.total.toNat + 1 :=
    BitVec.toNat_add_of_lt (show _ + 1 < _ by omega)
  refine h.with_counters (n := e.chunkSize + 1) (t := e.total + 1) (ca := e.cacc ++ [b])
    (sa := e.sacc ++ [b]) ?_ ?_ ?_ fun hz => zipAdvance_of_disabled b hz (h.zipOff hz)
  · rw [List.length_append, hsize, h.chunkBytes, List.length_singleton]
  · rw [List.length_append, htot, h.streamBytes, List.length_singleton]
  · rw [hsize, htot]
    exact Nat.succ_le_succ h.counters

/-- A roll writes at the cursor only, so the window memory stays inside the window. -/
theorem Engine.mem_win_roll (b : Byte) (hc : e.cursor.toNat < e.optW)
    (hw : ∀ x ∈ e.win, x.1 < e.optW) : ∀ x ∈ (e.roll b).win, x.1 < e.optW :=
  fun x hx => (Memory.mem_write hx).elim (fun hx => hx ▸ hc) (hw x)

/-- HASH, the window and the cursor may change together. -/
theorem Engine.LiveUnbounded.with_window (h : e.LiveUnbounded c) {hash cursor : Word} {win : Memory}
    (hh : hash.toNat < 2 ^ 63) (hc : cursor.toNat < e.optW) (hw : ∀ x ∈ win, x.1 < e.optW) :
    ({ e with hash := hash, win := win, cursor := cursor } : Engine).LiveUnbounded c :=
  { h with
    options := { h.options with }
    cursor := hc
    hash := hh
    zipCnt := nofun
    unfinished := nofun
    window := hw }

/-- Rolling a byte (42_chunker.md R164). -/
theorem Engine.LiveUnbounded.roll (h : e.LiveUnbounded c) (hwf : Memory.wf e.win = true)
    (b : Byte) : (e.roll b).LiveUnbounded c :=
  have hroll := (h.rolling hwf).roll b
  h.with_window hroll.hash hroll.cursor (Engine.mem_win_roll b h.cursor h.window)

theorem Engine.Live.with_window (h : e.Live c) (hf : e.fault = false) {hash cursor : Word}
    {win : Memory} (hh : hash.toNat < 2 ^ 63) (hc : cursor.toNat < e.optW)
    (hw : ∀ x ∈ win, x.1 < e.optW) :
    ({ e with hash := hash, win := win, cursor := cursor } : Engine).Live c :=
  (h.unbounded.with_window hh hc hw).live (h.zipCnt hf) (h.unfinished hf)

/-- ROLL (41_rolling_hash.md R133). -/
theorem Engine.Live.roll (h : e.Live c) (hwf : Memory.wf e.win = true) (b : Byte)
    (hf : e.fault = false) : (e.roll b).Live c :=
  have hroll := (h.unbounded.rolling hwf).roll b
  h.with_window hf hroll.hash hroll.cursor (Engine.mem_win_roll b h.cursor h.window)

/-- HASH_RESET (41_rolling_hash.md R135). -/
theorem Engine.Live.hashReset (h : e.Live c) (hf : e.fault = false) : e.hashReset.Live c :=
  h.with_window hf (win := []) (by decide : (0 : Word).toNat < 2 ^ 63) h.cursor nofun

/-- A chunk-local reset (42_chunker.md R169), also when the queue or the stream changes with it. -/
theorem Engine.LiveUnbounded.reset_chunk (h : e.LiveUnbounded c) {q : List Chunk} {total : Word}
    {sacc : List Byte} (hs : sacc.length = total.toNat)
    (hr : ∀ r ∈ q, 1 ≤ r.size.toNat ∧ r.digest.length = c.dlC)
    (hq : ∀ n, c.qCap = some n → q.length ≤ n) :
    ({ e with q := q, total := total, sacc := sacc } : Engine).chunkLocalReset.Live c :=
  { h with
    options := { h.options with }
    hash := (by decide : (0 : Word).toNat < 2 ^ 63)
    chunkBytes := rfl
    streamBytes := hs
    counters := Nat.zero_le _
    zipCnt := fun _ => Nat.zero_le _
    zipOff := fun _ => rfl
    unfinished := fun _ => Nat.lt_of_lt_of_le (Engine.firstTested_pos c e) (Nat.le_max_left _ _)
    records := hr
    queue := hq
    window := fun _ hx => nomatch hx }

/-- The queue with a nonempty current chunk put in holds sound records (42_chunker.md R168). -/
theorem Engine.LiveUnbounded.records_append (h : e.LiveUnbounded c) (hs : 1 ≤ e.chunkSize.toNat) :
    ∀ r ∈ e.q ++ [e.currentChunk c], 1 ≤ r.size.toNat ∧ r.digest.length = c.dlC := by
  intro r hr
  rcases List.mem_append.mp hr with hr | hr
  · exact h.records r hr
  · obtain rfl := List.mem_singleton.mp hr
    exact ⟨hs, by simp [Engine.currentChunk]⟩

/-- A queue that is not full has room for one record (42_chunker.md R168). -/
theorem Engine.LiveUnbounded.queue_append (h : e.LiveUnbounded c) (hfull : e.queueFull c = false)
    (r : Chunk) : ∀ n, c.qCap = some n → (e.q ++ [r]).length ≤ n := by
  intro n hn
  have hle : e.q.length ≤ n := h.queue n hn
  have hne : e.q.length ≠ n := by
    rintro rfl
    simp [Engine.queueFull, hn] at hfull
  simp only [List.length_append, List.length_singleton]
  omega

/-- A cut that the queue takes (42_chunker.md R168). -/
theorem Engine.LiveUnbounded.pushChunk (h : e.LiveUnbounded c) (hs : 1 ≤ e.chunkSize.toNat)
    (hfull : e.queueFull c = false) : (e.pushChunk c).Live c :=
  h.reset_chunk h.streamBytes (h.records_append hs) (h.queue_append hfull _)

/-- FINALIZE, when the queue takes what is left of the chunk (43_output.md R190). -/
theorem Engine.Live.closeStream (h : e.Live c)
    (hq : ¬(e.chunkSize ≠ 0 ∧ e.queueFull c = true)) : (e.closeStream c).Live c := by
  have hlive : ({ e with
      q := if e.chunkSize ≠ 0 then e.q ++ [e.currentChunk c] else e.q
      total := 0, sacc := [] } : Engine).chunkLocalReset.Live c := by
    by_cases hs : e.chunkSize = 0
    · simp only [hs, ne_eq, not_true_eq_false, if_false]
      exact h.unbounded.reset_chunk rfl h.records h.queue
    · have hfull : e.queueFull c = false := Bool.eq_false_iff.mpr fun hf => hq ⟨hs, hf⟩
      have hpos : 1 ≤ e.chunkSize.toNat :=
        Nat.one_le_iff_ne_zero.mpr fun h0 => hs (BitVec.eq_of_toNat_eq h0)
      simp only [hs, ne_eq, not_false_eq_true, if_true]
      exact h.unbounded.reset_chunk rfl (h.unbounded.records_append hpos)
        (h.unbounded.queue_append hfull _)
  rw [Engine.closeStream_eq]
  exact { hlive with options := { hlive.options with } }

/-- POP (43_output.md R195). -/
theorem Engine.Live.dequeue (h : e.Live c) : (e.dequeue c).Live c := by
  unfold Engine.dequeue
  split
  next hq => exact { h with options := { h.options with } }
  next r rest hq =>
    exact
      { h with
        options := { h.options with }
        records := fun r' hr' => h.records r' (hq ▸ List.mem_cons_of_mem _ hr')
        queue := fun n hn => by
          have hlen : e.q.length ≤ n := h.queue n hn
          rw [hq, List.length_cons] at hlen
          exact Nat.le_of_succ_le hlen }

/-- CONFIGURE on acceptable options (42_chunker.md R152, R153). -/
theorem Engine.construct_live (h : acceptable c e) (hf : e.cfgFlags = 0 ∨ e.cfgFlags = 1) :
    (e.construct c).Live c := by
  obtain ⟨havg, hpos, hcap, hconst⟩ := h
  exact
    { options := {
        window := ⟨hpos, hcap⟩
        const64 := hconst
        average := havg
        flags := by
          rw [Engine.construct_actFlags]
          rcases hf with hf | hf <;> rw [hf] <;> decide }
      tables := ⟨rfl, rfl⟩
      cursor := hpos
      hash := (by decide : (0 : Word).toNat < 2 ^ 63)
      chunkBytes := rfl
      streamBytes := rfl
      counters := le_rfl
      zipCnt := fun _ => Nat.zero_le _
      zipOff := fun _ => rfl
      unfinished := fun _ =>
        Nat.lt_of_lt_of_le (Engine.firstTested_pos c (e.construct c)) (Nat.le_max_left _ _)
      records := fun _ hr => nomatch hr
      queue := fun _ _ => Nat.zero_le _
      window := fun _ hx => nomatch hx }

/-! ### The bounds a byte leaves behind -/

/-- A match counter that is not 4 is at most 3 (10_state.md R33, R38). -/
theorem Engine.zipCnt_le_of_not_seenZip (h : e.seenZip = false) : e.zipCnt.val ≤ 3 := by
  have hne : e.zipCnt ≠ 4 := by simpa [Engine.seenZip] using h
  have hlt := e.zipCnt.isLt
  have : e.zipCnt.val ≠ 4 := fun h4 => hne (Fin.ext h4)
  omega

/-- A fast-skipped byte completes no zip signature (42_chunker.md R163). -/
theorem Engine.not_seenZip_of_fastSkips (h : e.fastSkips c = true) : e.seenZip = false := by
  simp only [Engine.fastSkips, Bool.and_eq_true, Bool.not_eq_true'] at h
  exact h.2

/-- A fast-skipped byte comes before the first tested one (42_chunker.md R163, R172). -/
theorem Engine.succ_lt_firstTested (h : e.fastSkips c = true) :
    e.chunkSize.toNat + 1 < e.firstTested c := by
  simp only [Engine.fastSkips, Bool.and_eq_true, decide_eq_true_eq] at h
  have hskip := h.1
  unfold Engine.firstTested
  rw [if_pos (by omega)]
  cases hc : c.skipCompare <;> simp only [hc] at hskip ⊢ <;> omega

/-- A byte that is no boundary completes no zip signature and stays below `MAX`
(42_chunker.md R166). -/
theorem Engine.not_atBoundary (h : e.atBoundary = false) :
    e.seenZip = false ∧ e.chunkSize.toNat < e.optMax := by
  simp only [Engine.atBoundary, Engine.capReached, Bool.or_eq_false_iff, decide_eq_false_iff_not,
    Nat.not_le] at h
  exact ⟨h.1.1, h.2⟩

/-! ### The invariant under the updates every command shares -/

/-- The invariant lets a configured engine be replaced by one that has what `Live` asks and keeps the
rest of what the invariant speaks of. -/
theorem Engine.Inv.of_live {e' : Engine} (h : e.Inv c) (hc : e'.configured = true) (hl : e'.Live c)
    (hmem : Memory.wf e'.win = true ∧ Memory.wf e'.outDigest = true ∧
      Memory.wf e'.statsDigest = true)
    (hflags : e'.cfgFlags = e.cfgFlags := by simp) (herr : e'.err = e.err := by simp)
    (hfault : e'.fault = e.fault := by simp) : e'.Inv c where
  cfgFlags := hflags ▸ h.cfgFlags
  memories := hmem
  faultCode := by rw [hfault, herr]; exact h.faultCode
  unconfigured := fun hc' => nomatch hc.symm.trans hc'
  configured := fun _ => hl

/-- Reporting an outcome keeps the invariant: `HALTED` on a faulted engine and nothing else there, and
a fatal fault on a configured engine only (60_exceptions.md R221, R223). -/
theorem Engine.Inv.raise (h : e.Inv c) {r : ErrCode} (hr : e.fault = true ↔ r = .halted)
    (hc : r.fatal = true → e.configured = true) : (e.raise r).Inv c where
  cfgFlags := h.cfgFlags
  memories := h.memories
  faultCode := by
    simp only [Engine.raise_fault, Engine.raise_err, Bool.or_eq_true, hr]
    cases r <;> simp [ErrCode.fatal]
  unconfigured := fun hu => by
    have hfatal : r.fatal = false := Bool.eq_false_iff.mpr fun hf => nomatch (hc hf).symm.trans hu
    rw [Engine.raise_of_not_fatal hfatal]
    exact congrArg (fun x : Engine => { x with err := r }) (h.unconfigured hu)
  configured := fun h' => (h.configured h').raise r

/-- A fatal fault leaves the invariant, whatever bounds the body had left open
(60_exceptions.md R221, R228). -/
theorem Engine.Inv.of_fatal {r : ErrCode} (hr : r.fatal = true) (hc : e.configured = true)
    (hl : e.LiveUnbounded c) (hflags : e.cfgFlags = 0 ∨ e.cfgFlags = 1)
    (hmem : Memory.wf e.win = true ∧ Memory.wf e.outDigest = true ∧
      Memory.wf e.statsDigest = true) : (e.raise r).Inv c where
  cfgFlags := hflags
  memories := hmem
  faultCode := by
    simp only [Engine.raise_fault, Engine.raise_err, hr, Bool.or_true, true_iff]
    cases r <;> simp [ErrCode.fatal] at hr ⊢
  unconfigured := fun hu => nomatch hc.symm.trans hu
  configured := fun _ => hl.raise_fatal hr

/-- A command that ends well sets `ERR <- 0` on an engine that is not faulted (10_state.md R41). -/
theorem Engine.Inv.succeed (h : e.Inv c) (hf : e.fault = false) :
    ({ e with err := .none } : Engine).Inv c := by
  rw [← Engine.raise_of_not_fatal rfl]
  exact h.raise (by simp [hf]) nofun

/-- The guards keep the invariant (60_exceptions.md R230), so a command keeps it if its body does. -/
theorem Engine.Inv.command {n : Bool} {body : Engine → Run} (h : e.Inv c)
    (hbody : e.fault = false → (n = true → e.configured = true) → (body e).finish.Inv c) :
    (e.command n body).Inv c := by
  rcases Engine.command_cases n body e with ⟨hf, heq⟩ | ⟨hf, -, -, heq⟩ | ⟨hf, hc, heq⟩ <;> rw [heq]
  · exact h.raise (by simp [hf]) nofun
  · exact h.raise (by simp [hf]) nofun
  · exact hbody hf hc

/-- As `Engine.Inv.command`, for a command that needs a configured engine and cannot raise. -/
theorem Engine.Inv.command_done {f : Engine → Engine} (h : e.Inv c)
    (hbody : ready e → (f e).Inv c ∧ (f e).fault = false) :
    (e.command true fun e => .done (f e)).Inv c :=
  h.command fun hf hc => (hbody ⟨hc rfl, hf⟩).1.succeed (hbody ⟨hc rfl, hf⟩).2

/-! ### The invariant under a byte -/

/-- What a run of bytes leaves: an engine ready for the next byte that meets the invariant, or a raised
outcome with which it meets it. -/
def Run.Inv (c : Config) : Run → Prop
  | .done e => ready e ∧ e.Inv c
  | .raised r e => (e.raise r).Inv c

theorem Run.Inv.finish {r : Run} (h : r.Inv c) : r.finish.Inv c := by
  cases r with
  | done e => exact h.2.succeed h.1.2
  | raised r e => exact h

/-- A fast-skipped byte keeps the invariant (42_chunker.md R163). -/
theorem Engine.Inv.skip (h : e.Inv c) (hr : ready e) {b : Byte} (ht : e.total.toNat ≠ 2 ^ 64 - 1)
    (hskip : (e.afterMatch c b).fastSkips c = true) : (e.afterMatch c b).countByte.Inv c := by
  have hl := (h.configured hr.1).unbounded
  have hzip : (e.afterMatch c b).countByte.zipCnt.val ≤ 3 :=
    Engine.zipCnt_le_of_not_seenZip (e := e.afterMatch c b) (Engine.not_seenZip_of_fastSkips hskip)
  have hsize : (e.afterMatch c b).countByte.chunkSize.toNat < (e.afterMatch c b).firstTested c := by
    show (e.chunkSize + 1).toNat < _
    rw [hl.toNat_chunkSize_succ ht]
    exact Engine.succ_lt_firstTested (e := e.afterMatch c b) hskip
  exact h.of_live (by simpa using hr.1)
    ((hl.count b ht).live hzip (hsize.trans_le (Nat.le_max_left _ _))) h.memories

/-- A rolled byte, but for the bounds that hold when it is no boundary or when the chunk is cut. -/
theorem Engine.Inv.afterRoll_unbounded (h : e.Inv c) (hr : ready e) (b : Byte)
    (ht : e.total.toNat ≠ 2 ^ 64 - 1) : (e.afterRoll c b).LiveUnbounded c :=
  ((h.configured hr.1).unbounded.count b ht).roll h.memories.1 b

theorem Engine.Inv.afterRoll_memories (h : e.Inv c) (b : Byte) :
    Memory.wf (e.afterRoll c b).win = true ∧ Memory.wf (e.afterRoll c b).outDigest = true ∧
      Memory.wf (e.afterRoll c b).statsDigest = true :=
  ⟨Memory.wf_write h.memories.1 _ _, by simpa using h.memories.2⟩

/-- A byte step keeps the invariant (42_chunker.md R160). -/
theorem Engine.Inv.byteStep (h : e.Inv c) (hr : ready e) (b : Byte) : (e.byteStep c b).Inv c := by
  have hmem := h.afterRoll_memories (c := c) b
  rcases Engine.byteStep_cases c e b with ⟨-, heq⟩ | ⟨ht, hskip, heq⟩ | ⟨ht, -, hb, heq⟩ |
    ⟨ht, -, hb, hq, heq⟩ | ⟨ht, -, hb, hq, heq⟩ <;> rw [heq]
  · exact h.raise (by simp [hr.2]) fun _ => hr.1
  · exact ⟨by simpa [ready] using hr, h.skip hr ht hskip⟩
  · obtain ⟨hzip, hmax⟩ := Engine.not_atBoundary hb
    have hl : (e.afterRoll c b).Live c := (h.afterRoll_unbounded hr b ht).live
      (Engine.zipCnt_le_of_not_seenZip hzip) (hmax.trans_le (Nat.le_max_right _ _))
    have hready : ready (e.afterRoll c b) := by simpa [ready] using hr
    exact ⟨hready, h.of_live hready.1 hl hmem⟩
  · exact Engine.Inv.of_fatal rfl (by simpa using hr.1) (h.afterRoll_unbounded hr b ht)
      (by simpa using h.cfgFlags) hmem
  · have hsize : 1 ≤ (e.afterRoll c b).chunkSize.toNat := by
      show 1 ≤ (e.chunkSize + 1).toNat
      rw [(h.configured hr.1).unbounded.toNat_chunkSize_succ ht]
      exact Nat.le_add_left 1 _
    have hl := (h.afterRoll_unbounded hr b ht).pushChunk hsize hq
    have hready : ready ((e.afterRoll c b).pushChunk c) := by simpa [ready] using hr
    exact ⟨hready, h.of_live hready.1 hl ⟨rfl, hmem.2⟩⟩

/-- Bytes in order keep the invariant (42_chunker.md R156). -/
theorem Engine.Inv.feedBytes (h : e.Inv c) (hr : ready e) (bytes : List Byte) :
    (Engine.feedBytes c bytes e).Inv c := by
  induction bytes generalizing e with
  | nil => exact ⟨hr, h⟩
  | cons b rest ih =>
    have hstep := h.byteStep hr b
    cases heq : e.byteStep c b with
    | done e' =>
      rw [heq] at hstep
      rw [Engine.feedBytes_cons_done heq]
      exact ih hstep.2 hstep.1
    | raised r e' =>
      rw [heq] at hstep
      rw [Engine.feedBytes_cons_raised heq]
      exact hstep

/-! ### The invariant under a command -/

theorem Engine.Inv.cmdCfg (h : e.Inv c) : (e.cmdCfg c).Inv c := by
  refine h.command fun hf _ => ?_
  cases hcheck : e.checkConfig c with
  | some r =>
    rcases Engine.checkConfig_eq_some hcheck with rfl | rfl <;> exact h.raise (by simp [hf]) nofun
  | none =>
    have hl := Engine.construct_live (Engine.checkConfig_eq_none_iff.mp hcheck) h.cfgFlags
    exact (h.of_live rfl hl ⟨rfl, rfl, rfl⟩).succeed hf

theorem Engine.Inv.cmdFin (h : e.Inv c) : (e.cmdFin c).Inv c := by
  refine h.command fun hf hc => ?_
  have hc := hc rfl
  split_ifs with hq
  · exact h.raise (by simp [hf]) fun _ => hc
  · have hl := (h.configured hc).closeStream hq
    have hinv : (e.closeStream c).Inv c := by
      rw [Engine.closeStream_eq] at hl ⊢
      exact h.of_live hc hl ⟨rfl, h.memories.2.1, Memory.wf_ofBytes _⟩
    exact hinv.succeed (by rw [Engine.closeStream_eq]; exact hf)

theorem Engine.Inv.dequeue (h : e.Inv c) (hr : ready e) :
    (e.dequeue c).Inv c ∧ (e.dequeue c).fault = false := by
  have hl := (h.configured hr.1).dequeue
  unfold Engine.dequeue at hl ⊢
  split at hl
  next => exact ⟨h.of_live hr.1 hl ⟨h.memories.1, rfl, h.memories.2.2⟩, hr.2⟩
  next =>
    exact ⟨h.of_live hr.1 hl ⟨h.memories.1, Memory.wf_ofBytes _, h.memories.2.2⟩, hr.2⟩

theorem Engine.Inv.roll (h : e.Inv c) (hr : ready e) (b : Byte) :
    (e.roll b).Inv c ∧ (e.roll b).fault = false :=
  have hl := (h.configured hr.1).roll h.memories.1 b hr.2
  ⟨h.of_live (by simpa using hr.1) hl ⟨Memory.wf_write h.memories.1 _ _, h.memories.2⟩,
    by simpa using hr.2⟩

theorem Engine.Inv.hashReset (h : e.Inv c) (hr : ready e) :
    e.hashReset.Inv c ∧ e.hashReset.fault = false :=
  have hl := (h.configured hr.1).hashReset hr.2
  ⟨h.of_live (by simpa using hr.1) hl ⟨rfl, h.memories.2⟩, by simpa using hr.2⟩

/-- Every command keeps the invariant of the engine, for every build. -/
theorem Engine.Inv.run (h : e.Inv c) (i : Instr) : (e.run c i).Inv c := by
  cases i with
  | nop opa data => exact h.command (body := .done) fun hf _ => h.succeed hf
  | cfg => exact h.cmdCfg
  | upd b =>
    exact h.command (body := fun e => e.byteStep c b) fun hf hc =>
      (h.byteStep ⟨hc rfl, hf⟩ b).finish
  | updp bytes =>
    exact h.command (body := Engine.feedBytes c bytes) fun hf hc =>
      (h.feedBytes ⟨hc rfl, hf⟩ bytes).finish
  | fin => exact h.cmdFin
  | pop => exact h.command_done h.dequeue
  | roll b => exact h.command_done (f := fun e => e.roll b) (h.roll · b)
  | hrst => exact h.command_done h.hashReset

/-- A word that decodes to ILLEGAL keeps the invariant (60_exceptions.md R225). -/
theorem Engine.Inv.illegalWord (h : e.Inv c) : e.illegalWord.Inv c := by
  rcases Engine.illegalWord_cases e with ⟨hf, heq⟩ | ⟨hf, heq⟩ <;> rw [heq]
  · exact h.raise (by simp [hf]) nofun
  · exact h.raise (by simp [hf]) nofun

/-! ### The invariant under a host write -/

/-- A value with all bits but bit 0 cleared is 0 or 1. -/
theorem and_one_eq_zero_or_one (v : Word) : v &&& 1 = 0 ∨ v &&& 1 = 1 := by
  have hmod : (v &&& 1).toNat = v.toNat % 2 := Nat.and_one_is_mod _
  rcases Nat.mod_two_eq_zero_or_one v.toNat with h | h
  · exact .inl (BitVec.eq_of_toNat_eq (hmod.trans h))
  · exact .inr (BitVec.eq_of_toNat_eq (hmod.trans h))

/-- All that a host write outside CMD can do is to stage options, and it leaves `CFG_FLAGS` as it is or
one bit long (20_memory.md R66). -/
theorem Engine.hostWrite_stages (off : Nat) (v : Word) (e : Engine) :
    ∃ w mn av mx fl : Word, (fl = e.cfgFlags ∨ fl = 0 ∨ fl = 1) ∧ e.hostWrite off v =
      { e with cfgWindow := w, cfgMin := mn, cfgAvg := av, cfgMax := mx, cfgFlags := fl } := by
  unfold Engine.hostWrite
  cases Register.ofOffset off with
  | none => exact ⟨_, _, _, _, _, .inl rfl, rfl⟩
  | some r =>
    cases r
    case cfgFlags => exact ⟨_, _, _, _, v &&& 1, .inr (and_one_eq_zero_or_one v), rfl⟩
    all_goals exact ⟨_, _, _, _, _, .inl rfl, rfl⟩

/-- Everything a host write can do: a write to CMD runs a command or reports an illegal word, and any
other write is `hostWrite`. -/
theorem Engine.writeEffect_cases (off : Nat) (v : Word) (e : Engine) :
    (∃ i, e.writeEffect off v = e.run Config.build i) ∨ e.writeEffect off v = e.illegalWord ∨
      e.writeEffect off v = e.hostWrite off v := by
  unfold Engine.writeEffect Engine.runWord
  split_ifs
  · cases decode v with
    | some i => exact .inl ⟨i, rfl⟩
    | none => exact .inr (.inl rfl)
  · exact .inr (.inr rfl)

theorem Engine.Inv.hostWrite (h : e.Inv c) (off : Nat) (v : Word) : (e.hostWrite off v).Inv c := by
  obtain ⟨w, mn, av, mx, fl, hfl, heq⟩ := Engine.hostWrite_stages off v e
  rw [heq]
  exact
    { cfgFlags := hfl.elim (fun hfl => hfl ▸ h.cfgFlags) id
      memories := h.memories
      faultCode := h.faultCode
      unconfigured := fun hu => congrArg (fun x : Engine =>
        { x with cfgWindow := w, cfgMin := mn, cfgAvg := av, cfgMax := mx, cfgFlags := fl })
        (h.unconfigured hu)
      configured := fun hc =>
        have hl := h.configured hc
        { hl with options := { hl.options with } } }

/-- A host write, to CMD or not, keeps the invariant. -/
theorem Engine.Inv.writeEffect (h : e.Inv Config.build) (off : Nat) (v : Word) :
    (e.writeEffect off v).Inv Config.build := by
  rcases Engine.writeEffect_cases off v e with ⟨i, heq⟩ | heq | heq <;> rw [heq]
  · exact h.run i
  · exact h.illegalWord
  · exact h.hostWrite off v

end Sys2Proof.Machine
end

section
/-! PROOFS. What every step keeps (10_state.md R44): a property of engines that power-on reset has and
every host write keeps is kept by every step; the engine invariant and the hash of the window are
two such properties. -/

namespace Sys2Proof.Machine

open Sys2Proof.Spec

/-! ### From engines to the machine -/

/-- A property of every engine is kept when the current engine is replaced by one that has it. -/
theorem State.forall_engine_setEngine {P : Engine → Prop} {s : State} {e : Engine}
    (h : ∀ p ∈ s.instances, P p.engine) (he : P e) :
    ∀ p ∈ (s.setEngine e).instances, P p.engine := by
  intro p hp
  obtain ⟨i, hi⟩ := List.mem_iff_getElem?.mp hp
  rw [State.setEngine_instances, List.getElem?_modify] at hi
  obtain ⟨q, hq, rfl⟩ := Option.map_eq_some_iff.mp hi
  split_ifs
  · exact he
  · exact h q (List.mem_of_getElem? hq)

/-- An access that answers a next state read a value or wrote to the engine of its instance. -/
theorem perform_eq_next {a : Access} {s s' : State} (h : perform a s = .next s') :
    (∃ v, s' = { s with cur := a.inst, readData := some v }) ∨
      ∃ p v, s.instances[a.inst.toNat]? = some p ∧
        s' = ({ s with cur := a.inst } : State).setEngine (p.engine.writeEffect a.off.toNat v) := by
  rcases perform_cases a s with ⟨-, hp⟩ | ⟨p, hmem, ⟨-, hp⟩ | ⟨-, -, -, hp⟩ | ⟨v, -, -, -, hp⟩ |
    ⟨v, -, -, -, -, hp⟩ | ⟨v, -, -, -, -, -, -, hp⟩ | ⟨v, -, -, -, -, hp⟩⟩ <;> rw [hp] at h
  · cases h
  · cases h
  · cases h
  · cases h
  · exact .inl ⟨v, (Host.Outcome.next.inj h).symm⟩
  · cases h
  · exact .inr ⟨p, v, hmem, (Host.Outcome.next.inj h).symm⟩

/-- A property of engines that holds after power-on reset and that every host write keeps is kept, in
all instances, by every step. -/
theorem step_keeps_forall_engine {P : Engine → Prop} (hreset : P Engine.reset)
    (hwrite : ∀ e off v, P e → P (e.writeEffect off v)) {s s' : State}
    (h : ∀ p ∈ s.instances, P p.engine) (hstep : step s = .next s') :
    ∀ p ∈ s'.instances, P p.engine := by
  rcases step_cases s with ⟨-, heq⟩ | ⟨rest, -, heq⟩ | ⟨a, rest, -, heq⟩ <;> rw [heq] at hstep
  · obtain rfl := Host.Outcome.next.inj hstep
    exact h
  · obtain rfl := Host.Outcome.next.inj hstep
    intro p hp
    obtain ⟨q, -, rfl⟩ := List.mem_map.mp hp
    exact hreset
  · rcases perform_eq_next hstep with ⟨v, rfl⟩ | ⟨p, v, hp, rfl⟩
    · exact h
    · exact State.forall_engine_setEngine h (hwrite _ _ _ (h p (List.mem_of_getElem? hp)))

/-! ### After reset -/

/-- Every instance of the machine after reset is an engine after power-on. -/
theorem State.engine_of_mem_reset {p : EngineInstance} (h : p ∈ State.reset.instances) :
    p.engine = Engine.reset := by
  rw [List.eq_of_mem_replicate h]

theorem Engine.reset_inv (c : Config) : Engine.reset.Inv c where
  cfgFlags := .inl rfl
  memories := ⟨rfl, rfl, rfl⟩
  faultCode := by simp [Engine.reset]
  unconfigured := fun _ => rfl
  configured := nofun

theorem Engine.reset_hashIsWindowRem (c : Config) : Engine.reset.HashIsWindowRem c :=
  Engine.hashIsWindowRem_of_clear rfl rfl

/-- Settles O57: engines after reset are unconfigured, with a cleared window. -/
theorem resetMeetsInvariants : Obligations.ResetMeetsInvariants :=
  ⟨fun _ hp => State.engine_of_mem_reset hp ▸ Engine.reset_inv _,
    fun _ hp => State.engine_of_mem_reset hp ▸ Engine.reset_hashIsWindowRem _⟩

/-- Settles O1: every instance after reset is `Engine.reset`, whose tables and memories hold 0. -/
theorem resetValues : Obligations.ResetValues := by
  refine ⟨List.cons_ne_nil _ _, fun p hp => ?_⟩
  rw [State.engine_of_mem_reset hp]
  have htable (i : Byte) : Table.entry (Vector.replicate 256 0) i = 0 := by simp [Table.entry]
  exact ⟨rfl, ⟨rfl, rfl, rfl, rfl, rfl⟩, ⟨rfl, rfl, rfl, rfl, rfl⟩, fun i => ⟨htable i, htable i⟩,
    ⟨rfl, rfl, rfl, rfl, rfl⟩, fun _ => rfl, rfl, rfl, rfl, ⟨rfl, rfl, fun _ => rfl⟩,
    ⟨rfl, rfl, fun _ => rfl⟩, rfl, rfl⟩

/-! ### The engine invariant -/

/-- Settles O58: reset meets the invariant and every host write keeps it, each command by its own
lemma. -/
theorem stepKeepsInvariant : Obligations.StepKeepsInvariant := fun _ _ h hstep =>
  step_keeps_forall_engine (Engine.reset_inv Config.build)
    (fun _ off v he => he.writeEffect off v) h hstep

/-! ### The hash of the window -/

variable {c : Config} {e : Engine}

/-- A configured engine that meets the invariant has what a roll needs. -/
theorem Engine.Inv.rolling (h : e.Inv c) (hc : e.configured = true) : e.Rolling c :=
  (h.configured hc).unbounded.rolling h.memories.1

/-- Only HASH, the window memory, the cursor and `W` matter to the hash of the window. -/
theorem Engine.HashIsWindowRem.congr {e' : Engine} (h : e.HashIsWindowRem c)
    (hh : e'.hash = e.hash := by simp) (hw : e'.win = e.win := by simp)
    (hc : e'.cursor = e.cursor := by simp) (ha : e'.actWindow = e.actWindow := by simp) :
    e'.HashIsWindowRem c := by
  simpa only [Engine.HashIsWindowRem, Engine.windowBytes, Engine.optW, hh, hw, hc, ha] using h

/-- What a run leaves of the hash of the window, raised or not. -/
def Run.HashIsWindowRem (c : Config) : Run → Prop
  | .done e => e.HashIsWindowRem c
  | .raised _ e => e.HashIsWindowRem c

theorem Run.HashIsWindowRem.finish {r : Run} (h : r.HashIsWindowRem c) :
    r.finish.HashIsWindowRem c := by
  cases r with
  | done e => exact Engine.HashIsWindowRem.congr h
  | raised r e => exact Engine.HashIsWindowRem.congr h

/-- The guards write `ERR` only, so a command keeps the hash of the window if its body does. -/
theorem Engine.HashIsWindowRem.command {n : Bool} {body : Engine → Run} (h : e.HashIsWindowRem c)
    (hbody : e.fault = false → (n = true → e.configured = true) → (body e).HashIsWindowRem c) :
    (e.command n body).HashIsWindowRem c := by
  rcases Engine.command_cases n body e with ⟨-, heq⟩ | ⟨-, -, -, heq⟩ | ⟨hf, hc, heq⟩ <;> rw [heq]
  · exact h.congr
  · exact h.congr
  · exact (hbody hf hc).finish

/-- A byte is skipped, rolled, or rolled before the window is cleared (42_chunker.md R160, R169). -/
theorem Engine.HashIsWindowRem.byteStep (h : e.HashIsWindowRem c) (hr : e.Rolling c) (b : Byte) :
    (e.byteStep c b).HashIsWindowRem c := by
  have hroll : (e.afterRoll c b).HashIsWindowRem c := (h.roll b hr).congr
  rcases Engine.byteStep_cases c e b with ⟨-, heq⟩ | ⟨-, -, heq⟩ | ⟨-, -, -, heq⟩ |
    ⟨-, -, -, -, heq⟩ | ⟨-, -, -, -, heq⟩ <;> rw [heq]
  · exact h
  · exact h.congr
  · exact hroll
  · exact hroll
  · exact Engine.hashIsWindowRem_of_clear rfl rfl

theorem Engine.HashIsWindowRem.feedBytes (h : e.HashIsWindowRem c) (hi : e.Inv c) (hr : ready e)
    (bytes : List Byte) : (Engine.feedBytes c bytes e).HashIsWindowRem c := by
  induction bytes generalizing e with
  | nil => exact h
  | cons b rest ih =>
    have hhash := h.byteStep (hi.rolling hr.1) b
    have hinv := hi.byteStep hr b
    cases heq : e.byteStep c b with
    | done e' =>
      rw [heq] at hhash hinv
      rw [Engine.feedBytes_cons_done heq]
      exact ih hhash hinv.2 hinv.1
    | raised r e' =>
      rw [heq] at hhash
      rw [Engine.feedBytes_cons_raised heq]
      exact hhash

theorem Engine.HashIsWindowRem.cmdCfg (h : e.HashIsWindowRem c) : (e.cmdCfg c).HashIsWindowRem c := by
  refine h.command fun _ _ => ?_
  cases e.checkConfig c with
  | some r => exact h
  | none => exact Engine.hashIsWindowRem_of_clear rfl rfl

theorem Engine.HashIsWindowRem.cmdFin (h : e.HashIsWindowRem c) : (e.cmdFin c).HashIsWindowRem c := by
  refine h.command fun _ _ => ?_
  split_ifs
  · exact h
  · exact Engine.hashIsWindowRem_of_clear rfl rfl

theorem Engine.HashIsWindowRem.dequeue (h : e.HashIsWindowRem c) :
    (e.dequeue c).HashIsWindowRem c := by
  unfold Engine.dequeue
  split <;> exact h.congr

/-- Every command keeps HASH the remainder of the window, on an engine that meets the invariant. -/
theorem Engine.HashIsWindowRem.run (h : e.HashIsWindowRem c) (hi : e.Inv c) (i : Instr) :
    (e.run c i).HashIsWindowRem c := by
  cases i with
  | nop opa data => exact h.command (body := .done) fun _ _ => h
  | cfg => exact h.cmdCfg
  | upd b =>
    exact h.command (body := fun e => e.byteStep c b) fun _ hc => h.byteStep (hi.rolling (hc rfl)) b
  | updp bytes =>
    exact h.command (body := Engine.feedBytes c bytes) fun hf hc =>
      h.feedBytes hi ⟨hc rfl, hf⟩ bytes
  | fin => exact h.cmdFin
  | pop => exact h.command (body := fun e => .done (e.dequeue c)) fun _ _ => h.dequeue
  | roll b =>
    exact h.command (body := fun e => .done (e.roll b)) fun _ hc => h.roll b (hi.rolling (hc rfl))
  | hrst =>
    exact h.command (body := fun e => .done e.hashReset) fun _ _ =>
      Engine.hashIsWindowRem_of_clear rfl rfl

theorem Engine.HashIsWindowRem.writeEffect (h : e.HashIsWindowRem Config.build)
    (hi : e.Inv Config.build) (off : Nat) (v : Word) :
    (e.writeEffect off v).HashIsWindowRem Config.build := by
  rcases Engine.writeEffect_cases off v e with ⟨i, heq⟩ | heq | heq <;> rw [heq]
  · exact h.run hi i
  · rcases Engine.illegalWord_cases e with ⟨-, heq⟩ | ⟨-, heq⟩ <;> rw [heq] <;> exact h.congr
  · obtain ⟨w, mn, av, mx, fl, -, heq⟩ := Engine.hostWrite_stages off v e
    exact heq ▸ h

/-- Settles O59: together with the invariant, which gives a roll its tables, cursor and short HASH,
every host write keeps HASH the remainder of the window. -/
theorem stepKeepsHashOfWindow : Obligations.StepKeepsHashOfWindow := fun _ _ hinv hhash hstep p hp =>
  (step_keeps_forall_engine (P := fun e => e.Inv Config.build ∧ e.HashIsWindowRem Config.build)
    ⟨Engine.reset_inv _, Engine.reset_hashIsWindowRem _⟩
    (fun _ off v h => ⟨h.1.writeEffect off v, h.2.writeEffect h.1 off v⟩)
    (fun p hp => ⟨hinv p hp, hhash p hp⟩) hstep p hp).2

end Sys2Proof.Machine
end

section
/-! PROOFS. The staged options (10_state.md R23, R25): every command but CONFIGURE runs alike whatever
they hold, and writes neither them nor the active options. -/

namespace Sys2Proof.Machine

/-! ### Commands commute with staging -/

/-- The engine `e` with the five staged options of `o` (10_state.md R24). -/
def Engine.stagedAs (o e : Engine) : Engine :=
  { e with
    cfgWindow := o.cfgWindow, cfgMin := o.cfgMin, cfgAvg := o.cfgAvg, cfgMax := o.cfgMax
    cfgFlags := o.cfgFlags }

/-- How a body ends, with the engine it leaves mapped. -/
def Run.map (f : Engine → Engine) : Run → Run
  | .done e => .done (f e)
  | .raised r e => .raised r (f e)

variable {c : Config} {o e : Engine}

theorem Run.finish_map_stagedAs (r : Run) :
    (r.map o.stagedAs).finish = o.stagedAs r.finish := by
  cases r <;> rfl

/-- The guards read no staged option. -/
theorem Engine.command_stagedAs (n : Bool) {body : Engine → Run}
    (hbody : body (o.stagedAs e) = (body e).map o.stagedAs) :
    (o.stagedAs e).command n body = o.stagedAs (e.command n body) := by
  unfold Engine.command
  rw [hbody, Run.finish_map_stagedAs]
  show (if e.fault then _ else if n && !e.configured then _ else _) = _
  split_ifs <;> rfl

/-- No test of the byte step reads a staged option. -/
theorem Engine.byteStep_stagedAs (b : Byte) :
    (o.stagedAs e).byteStep c b = (e.byteStep c b).map o.stagedAs := by
  simp only [Engine.byteStep, Engine.rollAndTest, Engine.cut, apply_ite (Run.map o.stagedAs)]
  rfl

theorem Engine.feedBytes_stagedAs (bytes : List Byte) :
    Engine.feedBytes c bytes (o.stagedAs e) = (Engine.feedBytes c bytes e).map o.stagedAs := by
  induction bytes generalizing e with
  | nil => rfl
  | cons b rest ih =>
    have hstep := Engine.byteStep_stagedAs (c := c) (o := o) (e := e) b
    cases heq : e.byteStep c b with
    | done e' =>
      rw [heq] at hstep
      rw [Engine.feedBytes_cons_done hstep, Engine.feedBytes_cons_done heq, ih]
    | raised r e' =>
      rw [heq] at hstep
      rw [Engine.feedBytes_cons_raised hstep, Engine.feedBytes_cons_raised heq]
      rfl

theorem Engine.dequeue_stagedAs : (o.stagedAs e).dequeue c = o.stagedAs (e.dequeue c) := by
  have hq : (o.stagedAs e).q = e.q := rfl
  unfold Engine.dequeue
  rw [hq]
  split <;> rfl

theorem Engine.closeStream_stagedAs :
    (o.stagedAs e).closeStream c = o.stagedAs (e.closeStream c) := by
  rw [Engine.closeStream_eq, Engine.closeStream_eq]
  rfl

theorem Engine.cmdFin_stagedAs : (o.stagedAs e).cmdFin c = o.stagedAs (e.cmdFin c) := by
  refine Engine.command_stagedAs true ?_
  rw [Engine.closeStream_stagedAs, apply_ite (Run.map o.stagedAs)]
  rfl

/-- 10_state.md R23: what a command other than CONFIGURE does is the same whatever is staged. -/
theorem Engine.run_stagedAs {i : Instr} (hi : i ≠ .cfg) :
    (o.stagedAs e).run c i = o.stagedAs (e.run c i) := by
  cases i with
  | nop opa data => exact Engine.command_stagedAs (body := .done) false rfl
  | cfg => exact absurd rfl hi
  | upd b =>
    exact Engine.command_stagedAs (body := fun e => e.byteStep c b) true (Engine.byteStep_stagedAs b)
  | updp bytes => exact Engine.command_stagedAs true (Engine.feedBytes_stagedAs bytes)
  | fin => exact Engine.cmdFin_stagedAs
  | pop =>
    exact Engine.command_stagedAs (body := fun e => .done (e.dequeue c)) true
      (congrArg Run.done Engine.dequeue_stagedAs)
  | roll b => exact Engine.command_stagedAs (body := fun e => .done (e.roll b)) true rfl
  | hrst => exact Engine.command_stagedAs (body := fun e => .done e.hashReset) true rfl

/-! ### CONFIGURE -/

/-- Everything CONFIGURE can do: it reports an outcome, or it constructs the engine
(42_chunker.md R152). -/
theorem Engine.cmdCfg_cases (c : Config) (e : Engine) :
    (∃ r, e.cmdCfg c = e.raise r) ∨ e.cmdCfg c = { e.construct c with err := .none } := by
  unfold Engine.cmdCfg
  rcases Engine.command_cases false _ e with ⟨-, heq⟩ | ⟨-, -, -, heq⟩ | ⟨-, -, heq⟩ <;> rw [heq]
  · exact .inl ⟨_, rfl⟩
  · exact .inl ⟨_, rfl⟩
  · cases e.checkConfig c with
    | some r => exact .inl ⟨r, rfl⟩
    | none => exact .inr rfl

/-- No command writes a staged option: CONFIGURE by its two outcomes, the others because what they do
commutes with staging again what is staged. -/
theorem Engine.run_staged (c : Config) (e : Engine) (i : Instr) :
    e.stagedAs (e.run c i) = e.run c i := by
  by_cases hi : i = .cfg
  · subst hi
    rcases Engine.cmdCfg_cases c e with ⟨r, heq⟩ | heq
    · exact (congrArg e.stagedAs heq).trans heq.symm
    · exact (congrArg e.stagedAs heq).trans heq.symm
  · exact (Engine.run_stagedAs hi).symm

/-! ### The active options -/

/-- The five active options (10_state.md R25). -/
def Engine.activeOptions (e : Engine) : Word × Word × Word × Word × Word :=
  (e.actWindow, e.actMin, e.actAvg, e.actMax, e.actFlags)

/-- The engine a body leaves, whichever way it ends. -/
def Run.engine : Run → Engine
  | .done e => e
  | .raised _ e => e

theorem Run.activeOptions_finish (r : Run) : r.finish.activeOptions = r.engine.activeOptions := by
  cases r <;> rfl

theorem Engine.activeOptions_command (n : Bool) {body : Engine → Run}
    (hbody : (body e).engine.activeOptions = e.activeOptions) :
    (e.command n body).activeOptions = e.activeOptions := by
  rcases Engine.command_cases n body e with ⟨-, heq⟩ | ⟨-, -, -, heq⟩ | ⟨-, -, heq⟩ <;> rw [heq]
  · rfl
  · rfl
  · rw [Run.activeOptions_finish, hbody]

theorem Engine.activeOptions_byteStep (b : Byte) :
    (e.byteStep c b).engine.activeOptions = e.activeOptions := by
  rcases Engine.byteStep_cases c e b with ⟨-, heq⟩ | ⟨-, -, heq⟩ | ⟨-, -, -, heq⟩ |
    ⟨-, -, -, -, heq⟩ | ⟨-, -, -, -, heq⟩ <;> rw [heq] <;> simp [Run.engine, Engine.activeOptions]

theorem Engine.activeOptions_feedBytes (bytes : List Byte) :
    (Engine.feedBytes c bytes e).engine.activeOptions = e.activeOptions := by
  induction bytes generalizing e with
  | nil => rfl
  | cons b rest ih =>
    have hstep := Engine.activeOptions_byteStep (c := c) (e := e) b
    cases heq : e.byteStep c b with
    | done e' => rw [Engine.feedBytes_cons_done heq, ih, ← hstep, heq, Run.engine]
    | raised r e' => rw [Engine.feedBytes_cons_raised heq, ← hstep, heq]

theorem Engine.activeOptions_dequeue : (e.dequeue c).activeOptions = e.activeOptions := by
  unfold Engine.dequeue
  split <;> rfl

theorem Engine.activeOptions_cmdFin : (e.cmdFin c).activeOptions = e.activeOptions := by
  refine Engine.activeOptions_command true ?_
  split_ifs
  · rfl
  · rw [Run.engine, Engine.closeStream_eq]
    rfl

/-- No command but CONFIGURE writes an active option. -/
theorem Engine.activeOptions_run {i : Instr} (hi : i ≠ .cfg) :
    (e.run c i).activeOptions = e.activeOptions := by
  cases i with
  | nop opa data => exact Engine.activeOptions_command (body := .done) false rfl
  | cfg => exact absurd rfl hi
  | upd b =>
    exact Engine.activeOptions_command (body := fun e => e.byteStep c b) true
      (Engine.activeOptions_byteStep b)
  | updp bytes => exact Engine.activeOptions_command true (Engine.activeOptions_feedBytes bytes)
  | fin => exact Engine.activeOptions_cmdFin
  | pop =>
    exact Engine.activeOptions_command (body := fun e => .done (e.dequeue c)) true
      Engine.activeOptions_dequeue
  | roll b => exact Engine.activeOptions_command (body := fun e => .done (e.roll b)) true rfl
  | hrst => exact Engine.activeOptions_command (body := fun e => .done e.hashReset) true rfl

/-- The active options after any command: as before, or latched by a CONFIGURE that succeeds. -/
theorem Engine.activeOptions_run_cases (c : Config) (e : Engine) (i : Instr) :
    (e.run c i).activeOptions = e.activeOptions ∨
      (i = .cfg ∧ e.run c i = { e.construct c with err := .none }) := by
  by_cases hi : i = .cfg
  · subst hi
    rcases Engine.cmdCfg_cases c e with ⟨r, heq⟩ | heq
    · refine .inl ?_
      show (e.cmdCfg c).activeOptions = _
      rw [heq]
      rfl
    · exact .inr ⟨rfl, heq⟩
  · exact .inl (Engine.activeOptions_run hi)

/-- Settles O17: commands other than CONFIGURE commute with staging, no command stages, and only a
CONFIGURE that constructs the engine latches. -/
theorem stagedOptionsActOnlyThroughConfigure : Obligations.StagedOptionsActOnlyThroughConfigure := by
  intro c e i
  refine ⟨fun hi w mn av mx fl => ?_, ?_, ?_⟩
  · exact Engine.run_stagedAs
      (o := { e with cfgWindow := w, cfgMin := mn, cfgAvg := av, cfgMax := mx, cfgFlags := fl }) hi
  · rw [← Engine.run_staged c e i]
    exact ⟨rfl, rfl, rfl, rfl, rfl⟩
  · rcases Engine.activeOptions_run_cases c e i with h | ⟨rfl, h⟩
    · simpa only [Engine.activeOptions, Prod.mk.injEq] using Or.inl h
    · rw [h]
      exact .inr ⟨rfl, rfl, rfl, rfl, rfl, rfl, rfl⟩

end Sys2Proof.Machine
end

section
/-! PROOFS. The register block (10_state.md R45; 20_memory.md R62, R63): what reads return, offset by
offset, and the bits of STATUS. -/

namespace Sys2Proof.Machine

/-! ### Offsets -/

theorem regionOf_bytes {off : Nat} (h : (0x100 ≤ off ∧ off < 0x200) ∨ 0x2000 ≤ off) :
    regionOf off = .bytes := by
  unfold regionOf
  split_ifs
  · omega
  · rfl
  · omega
  · omega
  · omega
  · rfl

theorem regionOf_ne_bytes {off : Nat} (h : off < 0x100 ∨ (0x200 ≤ off ∧ off < 0x2000)) :
    regionOf off ≠ .bytes := by
  unfold regionOf
  split_ifs
  · decide
  · omega
  · decide
  · decide
  · decide
  · omega

/-- The offset of a register leads back to it (10_state.md R45). -/
theorem Register.ofOffset_offset (r : Register) : Register.ofOffset r.offset = some r := by
  cases r
  case shift i =>
    have hi := i.isLt
    have hdiv : (0x800 + 8 * i.toNat - 0x800) / 8 = i.toNat := by omega
    rw [Register.offset, Register.ofOffset, if_neg (by omega), if_pos (by omega), hdiv,
      BitVec.ofNat_toNat, BitVec.setWidth_eq]
  case drop i =>
    have hi := i.isLt
    have hdiv : (0x1000 + 8 * i.toNat - 0x1000) / 8 = i.toNat := by omega
    rw [Register.offset, Register.ofOffset, if_neg (by omega), if_neg (by omega),
      if_pos (by omega), hdiv, BitVec.ofNat_toNat, BitVec.setWidth_eq]
  all_goals rfl

/-- Every register is 8-aligned and outside the byte windows. -/
theorem Register.offset_aligned (r : Register) :
    r.offset % 8 = 0 ∧ (r.offset < 0x100 ∨ (0x200 ≤ r.offset ∧ r.offset < 0x2000)) := by
  cases r
  case shift i | drop i =>
    have hi := i.isLt
    simp only [Register.offset]
    omega
  all_goals decide

/-- The reserved offsets below 0x100, in units of 8 bytes (10_state.md R45). -/
theorem Register.named_reserved : ∀ m < 32, (15 ≤ m ∧ m < 18) ∨ 23 ≤ m →
    Register.named (8 * m) = none := by decide

/-- The reserved ranges hold no register (10_state.md R45). -/
theorem Register.ofOffset_reserved {off : Nat} (h8 : off % 8 = 0)
    (h : (0x078 ≤ off ∧ off < 0x090) ∨ (0x0B8 ≤ off ∧ off < 0x100) ∨ (0x200 ≤ off ∧ off < 0x800) ∨
      (0x1800 ≤ off ∧ off < 0x2000)) : Register.ofOffset off = none := by
  unfold Register.ofOffset
  split_ifs with h1 h2 h3
  · rw [← Nat.mul_div_cancel' (Nat.dvd_of_mod_eq_zero h8)]
    exact Register.named_reserved (off / 8) (by omega) (by omega)
  · omega
  · omega
  · rfl

/-! ### Reads -/

variable (c : Config) (e : Engine)

theorem Engine.hostRead_eight {off : Nat} (h : off % 8 = 0) :
    e.hostRead c off 8 = some (e.read64 c off) := by
  simp [Engine.hostRead, readPermitted, h]

theorem Engine.hostRead_one {off : Nat} (h : regionOf off = .bytes) :
    e.hostRead c off 1 = some (e.windowByte c off).toWord := by
  simp [Engine.hostRead, readPermitted, h]

/-- The 8-byte read of a register returns its value (10_state.md R45). -/
theorem Engine.hostRead_register (r : Register) :
    e.hostRead c r.offset 8 = some (e.readRegister r) := by
  obtain ⟨halign, hrange⟩ := r.offset_aligned
  rw [Engine.hostRead_eight c e halign, Engine.read64, if_neg (regionOf_ne_bytes hrange),
    Register.ofOffset_offset]

/-- The 8-byte read of a byte window is little-endian (20_memory.md R62). -/
theorem Engine.hostRead_window {off : Nat} (h8 : off % 8 = 0) (h : regionOf off = .bytes) :
    e.hostRead c off 8 = some (littleEndian8 (e.windowByte c) off) := by
  rw [Engine.hostRead_eight c e h8, Engine.read64, if_pos h]

/-- A byte placed at byte `j` of a word fills byte `j` and no other. -/
theorem getLsbD_byte_shiftLeft (b : Byte) {j k i : Nat} (hk : k < 8) (hi : i < 8) :
    (b.toWord <<< (8 * j)).getLsbD (8 * k + i) = (decide (j = k) && b.getLsbD i) := by
  rw [BitVec.getLsbD_shiftLeft, BitVec.getLsbD_setWidth]
  rcases Nat.lt_trichotomy j k with hlt | rfl | hgt
  · have hge : 8 ≤ 8 * k + i - 8 * j := by omega
    simp [BitVec.getLsbD_of_ge b _ hge, hlt.ne]
  · simp [show 8 * j + i < 64 by omega, show i < 64 by omega]
  · simp [show 8 * k + i < 8 * j by omega, hgt.ne']

/-- Byte `k` of a little-endian word, bit by bit. -/
theorem getLsbD_littleEndian8 (byteAt : Nat → Byte) (o : Nat) {k i : Nat} (hk : k < 8) (hi : i < 8) :
    (littleEndian8 byteAt o).getLsbD (8 * k + i) = (byteAt (o + k)).getLsbD i := by
  have placed (j : Nat) := getLsbD_byte_shiftLeft (byteAt (o + j)) (j := j) hk hi
  have h0 : (byteAt o).toWord = (byteAt (o + 0)).toWord <<< (8 * 0) := by simp
  rw [littleEndian8, h0]
  simp only [BitVec.getLsbD_or, placed 0, placed 1, placed 2, placed 3, placed 4, placed 5, placed 6,
    placed 7]
  interval_cases k <;> simp

/-- Byte `k` of a little-endian word is the byte read there (20_memory.md R62). -/
theorem byte_littleEndian8 (byteAt : Nat → Byte) (o : Nat) {k : Nat} (hk : k < 8) :
    (littleEndian8 byteAt o >>> (8 * k)) &&& 0xFF = (byteAt (o + k)).toWord := by
  have mask (i : Nat) : (0xFF : Word).getLsbD i = decide (i < 8) := by
    rw [← BitVec.testBit_toNat]
    exact Nat.testBit_two_pow_sub_one 8 i
  refine BitVec.eq_of_getLsbD_eq fun i hi => ?_
  rw [BitVec.getLsbD_and, BitVec.getLsbD_ushiftRight, mask, BitVec.getLsbD_setWidth]
  by_cases h8 : i < 8
  · simp [h8, hi, getLsbD_littleEndian8 byteAt o hk h8]
  · simp [h8, BitVec.getLsbD_of_ge (byteAt (o + k)) i (by omega)]

/-! ### The byte windows -/

theorem Engine.windowByte_out {k : Nat} (hk : k < 128) :
    e.windowByte c (0x100 + k) = Memory.read e.outDigest k := by
  rw [Engine.windowByte, if_pos (by omega), Nat.add_sub_cancel_left]

theorem Engine.windowByte_stats {k : Nat} (hk : k < 128) :
    e.windowByte c (0x180 + k) = Memory.read e.statsDigest k := by
  rw [Engine.windowByte, if_neg (by omega), if_pos (by omega), Nat.add_sub_cancel_left]

theorem Engine.windowByte_win (j : Nat) :
    e.windowByte c (0x2000 + j) = if j < c.winCap then Memory.read e.win j else 0 := by
  rw [Engine.windowByte, if_neg (by omega), if_neg (by omega), Nat.add_sub_cancel_left]
  simp

/-- Settles O52: registers by their offsets, windows byte by byte and by `byte_littleEndian8`, reserved
offsets because no register stands there. -/
theorem registerMap : Obligations.RegisterMap := by
  intro c e
  have reg := e.hostRead_register c
  refine ⟨⟨reg .cmd, reg .status, reg .cfgWindow, reg .cfgMin, reg .cfgAvg, reg .cfgMax,
    reg .cfgFlags, reg .hash, reg .chunkSize, reg .total, reg .zipCnt, reg .cursor, reg .qCount, reg .outSize,
    reg .statsSize, reg .actWindow, reg .actMin, reg .actAvg, reg .actMax, reg .actFlags⟩,
    fun k hk => ⟨?_, ?_⟩, fun j hj => ?_, fun off h8 hoff => ?_,
    fun i => ⟨reg (.shift i), reg (.drop i)⟩,
    fun off h8 hoff => ⟨?_, fun v => ?_⟩⟩
  · rw [e.hostRead_one c (regionOf_bytes (by omega)), e.windowByte_out c hk]
  · rw [e.hostRead_one c (regionOf_bytes (by omega)), e.windowByte_stats c hk]
  · rw [e.hostRead_one c (regionOf_bytes (by omega)), e.windowByte_win c j]
    split_ifs <;> rfl
  · refine ⟨_, e.hostRead_window c h8 (regionOf_bytes (by omega)), fun k hk => ?_⟩
    rw [e.hostRead_one c (regionOf_bytes (by omega)), byte_littleEndian8 _ _ hk]
  · rw [e.hostRead_eight c h8, Engine.read64, if_neg (regionOf_ne_bytes (by omega)),
      Register.ofOffset_reserved h8 hoff]
  · rw [Engine.hostWrite, Register.ofOffset_reserved h8 hoff]

/-! ### STATUS -/

/-- A short field placed at bit `k` of a word. -/
theorem toNat_setWidth_shiftLeft {n k : Nat} (x : BitVec n) (h : n + k ≤ 64) :
    (x.setWidth 64 <<< k).toNat = x.toNat * 2 ^ k := by
  have hx : x.toNat * 2 ^ k < 2 ^ 64 :=
    calc x.toNat * 2 ^ k < 2 ^ n * 2 ^ k := Nat.mul_lt_mul_of_pos_right x.isLt (Nat.two_pow_pos k)
      _ = 2 ^ (n + k) := (Nat.pow_add ..).symm
      _ ≤ 2 ^ 64 := Nat.pow_le_pow_right (by norm_num) h
  rw [BitVec.toNat_shiftLeft, BitVec.toNat_setWidth_of_le (by omega), Nat.shiftLeft_eq,
    Nat.mod_eq_of_lt hx]

/-- A field placed above a number is added to it. -/
theorem or_mul_two_pow {a k : Nat} (h : a < 2 ^ k) (b : Nat) : a ||| b * 2 ^ k = a + b * 2 ^ k := by
  rw [Nat.or_comm, ← Nat.shiftLeft_eq, ← Nat.shiftLeft_add_eq_or_of_lt h, Nat.add_comm]

/-- STATUS as the sum of its fields (10_state.md R40). -/
theorem Engine.toNat_status : e.status.toNat =
    e.configured.toNat + e.outValid.toNat * 2 ^ 1 + e.statsValid.toNat * 2 ^ 2 +
      (!e.q.isEmpty).toNat * 2 ^ 3 + e.err.code.toNat * 2 ^ 8 + e.fault.toNat * 2 ^ 12 := by
  have h0 := e.configured.toNat_le
  have h1 := e.outValid.toNat_le
  have h2 := e.statsValid.toNat_le
  have h3 := (!e.q.isEmpty).toNat_le
  have h8 := e.err.code.isLt
  have bit {k : Nat} (hk : 1 + k ≤ 64) (b : Bool) : (bitAt k b).toNat = b.toNat * 2 ^ k := by
    rw [bitAt, toNat_setWidth_shiftLeft _ hk, BitVec.toNat_ofBool]
  simp only [Engine.status, BitVec.toNat_or]
  rw [bit (by norm_num), bit (by norm_num), bit (by norm_num), bit (by norm_num), bit (by norm_num),
    toNat_setWidth_shiftLeft _ (by norm_num), pow_zero, mul_one, or_mul_two_pow (k := 1) (by omega),
    or_mul_two_pow (k := 2) (by omega), or_mul_two_pow (k := 3) (by omega),
    or_mul_two_pow (k := 8) (by omega), or_mul_two_pow (k := 12) (by omega)]

/-- Settles O51: the fields of STATUS lie at different bits, so that their union is their sum. -/
theorem statusBits : Obligations.StatusBits := by
  intro c e
  refine ⟨⟨_, e.hostRead_register c .status, ?_⟩, fun v => rfl⟩
  have hq : (!e.q.isEmpty) = decide (0 < e.q.length) := by cases e.q <;> simp
  rw [Engine.readRegister, Engine.toNat_status, hq]
  ring

end Sys2Proof.Machine
end

section
/-! PROOFS. Host accesses (20_memory.md R60 to R71): the device window, which accesses are permitted,
what a write outside CMD stores, and that an access touches one instance only. -/

namespace Sys2Proof.Machine

/-! ### The device window -/

/-- The pair an address names is the one pair it is the address of (20_memory.md R60). -/
theorem locate_eq_some {c : Config} {addr : Nat} {i : BitVec 4} {off : BitVec 14} :
    locate c addr = some (i, off) ↔ i.toNat < c.nInst ∧ hostAddress c i off = addr := by
  have hn := c.nInst_legal
  have hoff := off.isLt
  unfold locate hostAddress
  constructor
  · intro h
    split_ifs at h with hr
    obtain ⟨rfl, rfl⟩ := Prod.mk.inj (Option.some.inj h)
    simp only [BitVec.toNat_ofNat]
    omega
  · rintro ⟨hi, rfl⟩
    have hsub : c.devBase + i.toNat * 0x4000 + off.toNat - c.devBase =
        i.toNat * 0x4000 + off.toNat := by omega
    have hdiv : (i.toNat * 0x4000 + off.toNat) / 0x4000 = i.toNat := by omega
    have hmod : (i.toNat * 0x4000 + off.toNat) % 0x4000 = off.toNat := by omega
    rw [if_pos (by omega), hsub, hdiv, hmod]
    simp

theorem locate_eq_none {c : Config} {addr : Nat} :
    locate c addr = none ↔ addr < c.devBase ∨ c.devBase + c.nInst * 0x4000 ≤ addr := by
  unfold locate
  split_ifs with h
  · exact iff_of_false nofun (by omega)
  · exact iff_of_true rfl (by omega)

/-- Settles O47: `locate` and `hostAddress` are inverse on the window, and the bounds are arithmetic. -/
theorem windowAddressesNameInstanceAndOffset : Obligations.WindowAddressesNameInstanceAndOffset := by
  refine fun c => ⟨fun i off hi => ⟨?_, ?_, locate_eq_some.mpr ⟨hi, rfl⟩⟩,
    fun addr i off => locate_eq_some.mp, fun addr => locate_eq_none⟩
  · unfold hostAddress
    omega
  · have hoff := off.isLt
    unfold hostAddress
    omega

/-! ### One instance of many -/

/-- Replacing the current engine leaves every other instance alone (20_memory.md R70). -/
theorem State.getElem?_setEngine_of_ne (s : State) (e : Engine) {j : Nat} (h : j ≠ s.cur.toNat) :
    (s.setEngine e).instances[j]? = s.instances[j]? :=
  List.getElem?_modify_ne _ _ h.symm

/-- Replacing the current engine leaves every owner alone (20_memory.md R71). -/
theorem State.owners_setEngine (s : State) (e : Engine) :
    (s.setEngine e).instances.map (·.owner) = s.instances.map (·.owner) := by
  refine List.ext_getElem? fun j => ?_
  rw [List.getElem?_map, List.getElem?_map]
  by_cases hj : j = s.cur.toNat
  · subst hj
    cases h : s.instances[s.cur.toNat]? <;> simp [h]
  · rw [s.getElem?_setEngine_of_ne e hj]

/-- Settles O7: a command replaces the current engine and nothing else. -/
theorem commandTouchesOnlyItsInstance : Obligations.CommandTouchesOnlyItsInstance := by
  intro i s s' h
  rw [exec_eq_onEngine] at h
  rcases onEngine_cases (fun e => e.run Config.build i) s with ⟨e, -, heq⟩ | ⟨-, heq⟩ <;>
    rw [heq] at h
  · obtain rfl := Host.Outcome.next.inj h
    exact ⟨rfl, rfl, rfl, s.owners_setEngine _, fun j hj => s.getElem?_setEngine_of_ne _ hj⟩
  · cases h

/-! ### One access -/

theorem step_access {s : State} {a : Access} {rest : List HostEvent}
    (h : s.pending = .access a :: rest) : step s = perform a { s with pending := rest } := by
  simp [step, nextEvent, h, handle]

theorem perform_noSuchInstance {a : Access} {s : State} (h : s.instances.length ≤ a.inst.toNat) :
    perform a s = .fault .noSuchInstance := by
  simp [perform, List.getElem?_eq_none h]

theorem perform_secondAgent {a : Access} {s : State} {p : EngineInstance}
    (hp : s.instances[a.inst.toNat]? = some p) (ho : a.agent ≠ p.owner) :
    perform a s = .refused .secondAgent := by
  simp [perform, hp, ho]

/-- Settles O55: the two checks that come before any access is performed. -/
theorem foreignAccessesStop : Obligations.ForeignAccessesStop := by
  intro s rest a h
  rw [step_access h]
  exact ⟨fun hn => perform_noSuchInstance hn, fun p hp ho => perform_secondAgent hp ho⟩

section Owner

variable {a : Access} {s : State} {p : EngineInstance} {v : Word}
  (hp : s.instances[a.inst.toNat]? = some p) (ho : a.agent = p.owner)
include hp ho

/-- A permitted read by the owner answers its value (20_memory.md R63, R66). -/
theorem perform_read (hk : a.kind = .read)
    (hv : p.engine.hostRead Config.build a.off.toNat a.size = some v) :
    perform a s = .next { s with cur := a.inst, readData := some v } := by
  simp [perform, hp, ho, hk, hv]

theorem perform_read_busError (hk : a.kind = .read)
    (hr : readPermitted a.off.toNat a.size = false) : perform a s = .refused .busError := by
  simp [perform, hp, ho, hk, Engine.hostRead, hr]

theorem perform_write_busError (hk : a.kind = .write v)
    (hw : writePermitted a.off.toNat a.size = false) : perform a s = .refused .busError := by
  simp [perform, hp, ho, hk, hw]

/-- Everything a permitted write by the owner can do: it is refused as a word of the custom space, or it
has its effect on the engine of its instance. -/
theorem perform_write_cases (hk : a.kind = .write v)
    (hw : writePermitted a.off.toNat a.size = true) :
    (a.off.toNat = 0 ∧ isCustomWord v = true ∧ p.engine.fault = false ∧
      perform a s = .refused .customCommand) ∨
    ((a.off.toNat ≠ 0 ∨ isCustomWord v = false ∨ p.engine.fault = true) ∧
      perform a s = .next (({ s with cur := a.inst } : State).setEngine
        (p.engine.writeEffect a.off.toNat v))) := by
  have he : ({ s with cur := a.inst } : State).engine? = some p.engine := by simp [State.engine?, hp]
  have hperform : perform a s = performWrite a.off.toNat v { s with cur := a.inst } := by
    simp [perform, hp, ho, hk, hw]
  rw [hperform]
  exact performWrite_cases a.off.toNat v he

/-- A permitted write by the owner that writes no word of the custom space has its effect. -/
theorem perform_write (hk : a.kind = .write v) (hw : writePermitted a.off.toNat a.size = true)
    (h : a.off.toNat ≠ 0 ∨ isCustomWord v = false ∨ p.engine.fault = true) :
    perform a s = .next (({ s with cur := a.inst } : State).setEngine
      (p.engine.writeEffect a.off.toNat v)) := by
  rcases perform_write_cases hp ho hk hw with ⟨h0, hc, hf, -⟩ | ⟨-, heq⟩
  · simp [h0, hc, hf] at h
  · exact heq

end Owner

/-! ### Permitted accesses -/

theorem regionOf_eq_bytes_iff {off : Nat} :
    regionOf off = .bytes ↔ (0x100 ≤ off ∧ off < 0x200) ∨ 0x2000 ≤ off := by
  refine ⟨fun h => ?_, regionOf_bytes⟩
  by_contra hoff
  exact regionOf_ne_bytes (by omega) h

/-- The reads of the block that 20_memory.md R63 permits. -/
theorem readPermitted_iff {off : Nat} (size : Nat) (hoff : off < 0x4000) :
    readPermitted off size = true ↔ (size = 8 ∧ off % 8 = 0) ∨
      (size = 1 ∧ ((0x100 ≤ off ∧ off < 0x200) ∨ (0x2000 ≤ off ∧ off < 0x4000))) := by
  simp [readPermitted, regionOf_eq_bytes_iff, hoff]

theorem writePermitted_iff {off size : Nat} :
    writePermitted off size = true ↔ size = 8 ∧ off % 8 = 0 := by
  simp [writePermitted]

/-- A word is of the custom space when its low byte is 0x80 or more (30_encoding.md R94). -/
theorem isCustomWord_eq_false {w : Word} (h : w.toNat % 256 < 0x80) : isCustomWord w = false :=
  decide_eq_false (by simpa [opcField] using h)

/-- Settles O48: a read and a write of the owner, permitted or not; only the write of a word of the
custom space to CMD is permitted and yet refused. -/
theorem onlyPermittedAccessesAreAnswered : Obligations.OnlyPermittedAccessesAreAnswered := by
  intro s rest a p h hp ho
  have hp' : ({ s with pending := rest } : State).instances[a.inst.toNat]? = some p := hp
  rw [step_access h]
  refine ⟨fun hk => ?_, fun v hk => ?_⟩
  · split_ifs with hperm <;> rw [← readPermitted_iff a.size a.off.isLt] at hperm
    · rw [← Engine.hostRead_isSome Config.build p.engine] at hperm
      obtain ⟨v, hv⟩ := Option.isSome_iff_exists.mp hperm
      exact ⟨v, hv, perform_read hp' ho hk hv⟩
    · exact perform_read_busError hp' ho hk (Bool.eq_false_of_not_eq_true hperm)
  · split_ifs with hperm <;> rw [← writePermitted_iff] at hperm
    · rcases perform_write_cases hp' ho hk hperm with ⟨h0, hc, -, heq⟩ | ⟨-, heq⟩ <;> rw [heq]
      · refine ⟨by simp, fun hor => ?_⟩
        rcases hor with hoff | hlow
        · exact absurd h0 hoff
        · simp [isCustomWord_eq_false hlow] at hc
      · exact ⟨nofun, fun _ => ⟨_, rfl⟩⟩
    · exact perform_write_busError hp' ho hk (Bool.eq_false_of_not_eq_true hperm)

/-! ### Writes outside CMD -/

theorem Register.offset_of_named {off : Nat} {r : Register} (h : Register.named off = some r) :
    r.offset = off := by
  unfold Register.named at h
  split at h <;> cases h <;> rfl

/-- The register that stands at an offset has that offset (10_state.md R45). -/
theorem Register.ofOffset_eq_some {off : Nat} {r : Register} :
    Register.ofOffset off = some r ↔ r.offset = off := by
  refine ⟨fun h => ?_, fun h => h ▸ r.ofOffset_offset⟩
  unfold Register.ofOffset at h
  split_ifs at h with hlow hshift hdrop
  · exact Register.offset_of_named h
  · obtain rfl := Option.some.inj h
    simp only [Register.offset, BitVec.toNat_ofNat]
    omega
  · obtain rfl := Option.some.inj h
    simp only [Register.offset, BitVec.toNat_ofNat]
    omega

/-- What a host write outside CMD stores, by its offset (20_memory.md R66). -/
theorem Engine.hostWrite_eq (off : Nat) (v : Word) (e : Engine) : e.hostWrite off v =
    if off = 0x010 then { e with cfgWindow := v }
    else if off = 0x018 then { e with cfgMin := v }
    else if off = 0x020 then { e with cfgAvg := v }
    else if off = 0x028 then { e with cfgMax := v }
    else if off = 0x030 then { e with cfgFlags := v &&& 1 }
    else e := by
  split_ifs with hwin hmin havg hmax hflags
  · subst hwin; rfl
  · subst hmin; rfl
  · subst havg; rfl
  · subst hmax; rfl
  · subst hflags; rfl
  · unfold Engine.hostWrite
    cases h : Register.ofOffset off with
    | none => rfl
    | some r =>
      have hoff := (Register.ofOffset_eq_some.mp h).symm
      cases r
      case cfgWindow => exact absurd hoff hwin
      case cfgMin => exact absurd hoff hmin
      case cfgAvg => exact absurd hoff havg
      case cfgMax => exact absurd hoff hmax
      case cfgFlags => exact absurd hoff hflags
      all_goals rfl

theorem and_one_eq_ofNat (v : Word) : v &&& 1 = BitVec.ofNat 64 (v.toNat % 2) := by
  refine BitVec.eq_of_toNat_eq ?_
  rw [BitVec.toNat_ofNat, Nat.mod_eq_of_lt (by omega)]
  exact Nat.and_one_is_mod _

/-- Settles O49: a read that answers replaces no engine, and a write outside CMD is `hostWrite`. -/
theorem writesOutsideCmdOnlyStageOptions : Obligations.WritesOutsideCmdOnlyStageOptions := by
  intro s rest a p h hp ho off s0 e
  have hp' : ({ s with pending := rest } : State).instances[a.inst.toNat]? = some p := hp
  have he : s0.engine? = some e := by simp [s0, e, State.engine?, hp]
  rw [step_access h]
  refine ⟨fun hk s' hs' => ?_, fun v hk hsize halign hoff => ?_⟩
  · cases hv : p.engine.hostRead Config.build a.off.toNat a.size with
    | some v =>
      rw [perform_read hp' ho hk hv] at hs'
      rw [← Host.Outcome.next.inj hs']
    | none =>
      have hperm := Engine.hostRead_isSome Config.build p.engine a.off.toNat a.size
      rw [perform_read_busError hp' ho hk (by simpa [hv] using hperm.symm)] at hs'
      cases hs'
  · rw [perform_write hp' ho hk (writePermitted_iff.mpr ⟨hsize, halign⟩) (.inl hoff),
      Engine.writeEffect, if_neg hoff, Engine.hostWrite_eq, ← and_one_eq_ofNat]
    simp only [apply_ite s0.setEngine, State.setEngine_self he, s0, off, e]

/-! ### Reads of the byte windows -/

/-- Settles O50: the byte is one of the eight that the word around it is made of. -/
theorem byteReadsAgreeWithWordReads : Obligations.ByteReadsAgreeWithWordReads := by
  intro c e off hoff
  have hsum : off - off % 8 + off % 8 = off := by omega
  rw [e.hostRead_one c (regionOf_bytes (by omega)),
    e.hostRead_window c (by omega) (regionOf_bytes (by omega)), Option.map_some,
    byte_littleEndian8 _ _ (by omega), hsum]

/-! ### Accesses to different instances -/

/-- An access that answers a next state puts an engine in its instance, and the same one in every
machine whose instance of that number is the same (20_memory.md R70). -/
theorem perform_local {a : Access} {s s' : State} (h : perform a s = .next s') :
    ∃ e, ∀ t : State, t.instances[a.inst.toNat]? = s.instances[a.inst.toNat]? →
      ∃ t', perform a t = .next t' ∧
        t'.instances = (({ t with cur := a.inst } : State).setEngine e).instances := by
  rcases perform_cases a s with ⟨-, heq⟩ | ⟨p, hp, ⟨-, heq⟩ | ⟨-, -, -, heq⟩ | ⟨v, -, -, -, heq⟩ |
    ⟨v, ho, hk, -, hv, -⟩ | ⟨v, -, -, -, -, -, -, heq⟩ | ⟨v, ho, hk, hw, hc, -⟩⟩
  · simp [heq] at h
  · simp [heq] at h
  · simp [heq] at h
  · simp [heq] at h
  · refine ⟨p.engine, fun t ht => ⟨_, perform_read (ht.trans hp) ho hk hv, ?_⟩⟩
    rw [State.setEngine_self (by simp [State.engine?, ht, hp])]
  · simp [heq] at h
  · exact ⟨_, fun t ht => ⟨_, perform_write (ht.trans hp) ho hk hw hc, rfl⟩⟩

/-- Settles O56: each access finds its instance as it would before the other, and puts its engine in a
different place. -/
theorem accessesToDifferentInstancesCommute : Obligations.AccessesToDifferentInstancesCommute := by
  intro s s1 s2 a b hab ha hb
  have hne : a.inst.toNat ≠ b.inst.toNat := fun h => hab (BitVec.eq_of_toNat_eq h)
  obtain ⟨ea, hperfA⟩ := perform_local ha
  obtain ⟨eb, hperfB⟩ := perform_local hb
  obtain ⟨_, ha', hs1⟩ := hperfA s rfl
  obtain rfl := Host.Outcome.next.inj (ha.symm.trans ha')
  obtain ⟨_, hb', hs2⟩ := hperfB s1 rfl
  obtain rfl := Host.Outcome.next.inj (hb.symm.trans hb')
  obtain ⟨s1', hb1, hs1'⟩ := hperfB s (by rw [hs1, State.getElem?_setEngine_of_ne _ _ hne.symm])
  obtain ⟨s2', ha1, hs2'⟩ := hperfA s1' (by rw [hs1', State.getElem?_setEngine_of_ne _ _ hne])
  refine ⟨s1', s2', hb1, ha1, ?_⟩
  simp only [State.setEngine_instances] at hs1 hs2 hs1' hs2'
  rw [hs2', hs2, hs1, hs1', List.modify_modify_ne _ _ _ hne]

end Sys2Proof.Machine
end

section
/-! PROOFS. The encoding (30_encoding.md R86 to R98): the fields of a word, the bytes an UPDATE_PACKED
carries, and that `decode` and `encode` are inverse to each other. -/

namespace Sys2Proof

/-! ### The fields of a word -/

theorem opcField_toNat (w : Word) : (opcField w).toNat = w.toNat % 256 := by
  simp [opcField]

theorem opaField_toNat (w : Word) : (opaField w).toNat = w.toNat / 2 ^ 8 % 256 := by
  simp [opaField, Nat.shiftRight_eq_div_pow]

theorem dataField_toNat (w : Word) : (dataField w).toNat = w.toNat / 2 ^ 16 := by
  have hw := w.isLt
  simp only [dataField, BitVec.extractLsb'_toNat, Nat.shiftRight_eq_div_pow]
  omega

theorem packedByte_eq_ofNat (w : Word) (k : Nat) :
    packedByte w k = BitVec.ofNat 8 (w.toNat / 2 ^ (16 + 8 * k)) := by
  simp [← BitVec.toNat_inj, packedByte, Nat.shiftRight_eq_div_pow]

theorem packedBytes_eq (w : Word) (n : Nat) : packedBytes w n =
    (List.range n).map fun k => BitVec.ofNat 8 (w.toNat / 2 ^ (16 + 8 * k)) :=
  List.map_congr_left fun k _ => packedByte_eq_ofNat w k

theorem tailClear_iff (w : Word) (n : Nat) :
    tailClear w n = true ↔ w.toNat / 2 ^ (16 + 8 * n) = 0 := by
  simp [tailClear, ← BitVec.toNat_inj, Nat.shiftRight_eq_div_pow]

/-- Settles O4: field by field, with the opcode's eight values as the cases. -/
theorem decoderReadsFieldsOfWord : Obligations.DecoderReadsFieldsOfWord := by
  intro w
  have hopa : opaField w = BitVec.ofNat 8 (w.toNat / 2 ^ 8 % 256) := by
    rw [← opaField_toNat, BitVec.ofNat_toNat, BitVec.setWidth_eq]
  have hdata : dataField w = BitVec.ofNat 48 (w.toNat / 2 ^ 16) := by
    rw [← dataField_toNat, BitVec.ofNat_toNat, BitVec.setWidth_eq]
  have hopa0 : opaField w = 0 ↔ w.toNat / 2 ^ 8 % 256 = 0 := by
    rw [← opaField_toNat]
    exact BitVec.toNat_inj.symm
  have hdata0 : dataField w = 0 ↔ w.toNat / 2 ^ 16 = 0 := by
    rw [← dataField_toNat]
    exact BitVec.toNat_inj.symm
  simp only [decode, opcField_toNat, opaField_toNat, hopa0, hdata0, tailClear_iff, packedBytes_eq,
    ite_not]
  rw [hopa, hdata]
  generalize w.toNat % 256 = opc
  split
  case h_9 => simp_all
  all_goals simp

/-! ### A word from its fields -/

theorem formatC_toNat (data : BitVec 48) (opa opc : Byte) :
    (formatC data opa opc).toNat = data.toNat * 2 ^ 16 + opa.toNat * 2 ^ 8 + opc.toNat := by
  have hdata : (data.setWidth 64 <<< 16).toNat = data.toNat <<< 16 := by
    rw [BitVec.toNat_shiftLeft, BitVec.toNat_setWidth]
    omega
  have hopa : (opa.setWidth 64 <<< 8).toNat = opa.toNat <<< 8 := by
    rw [BitVec.toNat_shiftLeft, BitVec.toNat_setWidth]
    omega
  have hopc : (opc.setWidth 64).toNat = opc.toNat := BitVec.toNat_setWidth_of_le (by decide)
  have hlow : opa.toNat <<< 8 + opc.toNat < 2 ^ 16 := by omega
  rw [formatC, BitVec.toNat_or, BitVec.toNat_or, hdata, hopa, hopc, Nat.or_assoc,
    ← Nat.shiftLeft_add_eq_or_of_lt opc.isLt, ← Nat.shiftLeft_add_eq_or_of_lt hlow]
  omega

/-- A word is the word of its three fields (30_encoding.md R86). -/
theorem formatC_fields (w : Word) : formatC (dataField w) (opaField w) (opcField w) = w := by
  rw [← BitVec.toNat_inj, formatC_toNat, dataField_toNat, opaField_toNat, opcField_toNat]
  omega

@[simp] theorem opcField_formatC (data : BitVec 48) (opa opc : Byte) :
    opcField (formatC data opa opc) = opc := Laws.EncodeOpcode.low_byte_formatC data opa opc

@[simp] theorem opaField_formatC (data : BitVec 48) (opa opc : Byte) :
    opaField (formatC data opa opc) = opa := by
  rw [← BitVec.toNat_inj, opaField_toNat, formatC_toNat]
  omega

@[simp] theorem dataField_formatC (data : BitVec 48) (opa opc : Byte) :
    dataField (formatC data opa opc) = data := by
  rw [← BitVec.toNat_inj, dataField_toNat, formatC_toNat]
  omega

/-! ### The bytes of an UPDATE_PACKED -/

/-- The DATA field of an UPDATE_PACKED (30_encoding.md R89). -/
def packedField (bytes : List Byte) : BitVec 48 := (packData bytes).setWidth 48

/-- The first `n` bytes of a DATA field in stream order (30_encoding.md R89). -/
def fieldBytes (data : BitVec 48) (n : Nat) : List Byte :=
  (List.range n).map fun k => data.extractLsb' (8 * k) 8

/-- The carried bytes lie in the DATA field (30_encoding.md R86, R89). -/
theorem packedBytes_eq_fieldBytes (w : Word) (n : Nat) :
    packedBytes w n = fieldBytes (dataField w) n := by
  refine List.map_congr_left fun k _ => ?_
  rw [← BitVec.toNat_inj, packedByte_eq_ofNat, BitVec.extractLsb'_toNat, dataField_toNat,
    BitVec.toNat_ofNat, Nat.shiftRight_eq_div_pow, Nat.div_div_eq_div_mul, Nat.pow_add]

theorem tailClear_iff_dataField (w : Word) (n : Nat) :
    tailClear w n = true ↔ dataField w >>> (8 * n) = 0 := by
  rw [tailClear_iff, ← BitVec.toNat_inj, BitVec.toNat_ushiftRight, dataField_toNat,
    Nat.shiftRight_eq_div_pow, Nat.div_div_eq_div_mul, Nat.pow_add]
  rfl

/-- Bit `i` of the bytes laid out from bit 0 up is bit `i % 8` of byte `i / 8` (30_encoding.md R89). -/
theorem getLsbD_packData (bytes : List Byte) {i : Nat} (hi : i < 64) :
    (packData bytes).getLsbD i = (bytes.getD (i / 8) 0).getLsbD (i % 8) := by
  induction bytes generalizing i with
  | nil => simp [packData]
  | cons b rest ih =>
    by_cases h : i < 8
    · simp [packData, h, hi, Nat.div_eq_of_lt, Nat.mod_eq_of_lt]
    · have hdiv : i / 8 = (i - 8) / 8 + 1 := by omega
      have hmod : i % 8 = (i - 8) % 8 := by omega
      have hb : b.getLsbD i = false := BitVec.getLsbD_of_ge _ _ (by omega)
      rw [packData, BitVec.getLsbD_or, BitVec.getLsbD_setWidth, BitVec.getLsbD_shiftLeft, hb,
        ih (by omega), hdiv, hmod]
      simp [h, hi]

theorem getLsbD_packedField (bytes : List Byte) {i : Nat} (hi : i < 48) :
    (packedField bytes).getLsbD i = (bytes.getD (i / 8) 0).getLsbD (i % 8) := by
  simp only [packedField, BitVec.getLsbD_setWidth, hi, decide_true, Bool.true_and]
  exact getLsbD_packData bytes (by omega)

theorem encode_updp {bytes : List Byte} (h : bytes.length < 256) : encode (.updp bytes) =
    formatC (packedField bytes) (BitVec.ofNat 8 bytes.length) 0x03 := by
  have hdata : packData bytes <<< 16 = (packedField bytes).setWidth 64 <<< 16 := by
    refine BitVec.eq_of_getLsbD_eq fun i hi => ?_
    have h48 : i - 16 < 48 := by omega
    have h64 : i - 16 < 64 := by omega
    simp [packedField, h48, h64]
  have hcount : BitVec.ofNat 64 bytes.length = (BitVec.ofNat 8 bytes.length).setWidth 64 := by
    rw [← BitVec.toNat_inj, BitVec.toNat_setWidth, BitVec.toNat_ofNat, BitVec.toNat_ofNat]
    omega
  rw [encode, formatC, hdata, hcount]
  rfl

/-- Laying bytes out and reading them back gives them (30_encoding.md R89). -/
theorem fieldBytes_packedField {bytes : List Byte} (h : bytes.length ≤ 6) :
    fieldBytes (packedField bytes) bytes.length = bytes := by
  refine List.ext_getElem (by simp [fieldBytes]) fun k _ hk => ?_
  refine BitVec.eq_of_getLsbD_eq fun i hi => ?_
  have hdiv : (8 * k + i) / 8 = k := by omega
  have hmod : (8 * k + i) % 8 = i := by omega
  simp [fieldBytes, getLsbD_packedField bytes (show 8 * k + i < 48 by omega), hi, hdiv, hmod, hk]

/-- Nothing lies above the bytes laid out (30_encoding.md R89). -/
theorem packedField_shift (bytes : List Byte) : packedField bytes >>> (8 * bytes.length) = 0 := by
  refine BitVec.eq_of_getLsbD_eq fun i hi => ?_
  rw [BitVec.getLsbD_ushiftRight]
  by_cases h : 8 * bytes.length + i < 48
  · have hge : bytes.length ≤ (8 * bytes.length + i) / 8 := by omega
    simp [getLsbD_packedField _ h, hge]
  · simp [BitVec.getLsbD_of_ge _ _ (Nat.le_of_not_lt h)]

/-- A DATA field with nothing above its first `n` bytes is those bytes laid out (30_encoding.md R89). -/
theorem packedField_fieldBytes {data : BitVec 48} {n : Nat} (h : data >>> (8 * n) = 0) :
    packedField (fieldBytes data n) = data := by
  refine BitVec.eq_of_getLsbD_eq fun i hi => ?_
  rw [getLsbD_packedField _ hi]
  have hsum : 8 * (i / 8) + i % 8 = i := by omega
  by_cases hn : i / 8 < n
  · simp [fieldBytes, hn, hsum, Nat.mod_lt]
  · have htail := congrArg (·.getLsbD (i - 8 * n)) h
    simp only [BitVec.getLsbD_ushiftRight] at htail
    rw [show 8 * n + (i - 8 * n) = i by omega] at htail
    simp [fieldBytes, hn, htail]

/-! ### The round trips -/

theorem wf_updp_iff {bytes : List Byte} :
    (Instr.updp bytes).wf = true ↔ 1 ≤ bytes.length ∧ bytes.length ≤ 6 := by
  simp only [Instr.wf, Bool.and_eq_true, decide_eq_true_eq]

/-- Settles O2: the fields of a word of format C are the fields it is made of, and the bytes of an
UPDATE_PACKED are read back from its DATA field. -/
theorem decodeOfEncode : Obligations.DecodeOfEncode := by
  intro i hwf
  cases i with
  | nop opa data => simp [encode, decode]
  | upd b | roll b => simp [encode, decode]
  | cfg | fin | pop | hrst => simp [encode, decode]
  | updp bytes =>
    obtain ⟨hpos, hle⟩ := wf_updp_iff.mp hwf
    have hopa : (BitVec.ofNat 8 bytes.length).toNat = bytes.length := by
      rw [BitVec.toNat_ofNat]
      omega
    have hcount : ¬(bytes.length < 1 ∨ 6 < bytes.length) := by omega
    have htail : tailClear (encode (.updp bytes)) bytes.length = true := by
      rw [tailClear_iff_dataField, encode_updp (by omega), dataField_formatC, packedField_shift]
    have hbytes : packedBytes (encode (.updp bytes)) bytes.length = bytes := by
      rw [packedBytes_eq_fieldBytes, encode_updp (by omega), dataField_formatC,
        fieldBytes_packedField hle]
    rw [encode_updp (by omega)] at htail hbytes ⊢
    simp only [decode, opcField_formatC, opaField_formatC, hopa, if_neg hcount, htail, hbytes]
    rfl

/-- Settles O3: a word is made of its three fields, whose values the decoder's case fixes. -/
theorem encodeOfDecode : Obligations.EncodeOfDecode := by
  intro w i h
  have hfields {opc : Byte} (hopc : (opcField w).toNat = opc.toNat) :
      formatC (dataField w) (opaField w) opc = w := by
    rw [← BitVec.eq_of_toNat_eq hopc, formatC_fields]
  simp only [decode] at h
  split at h
  case h_1 hopc =>
    cases h
    exact ⟨rfl, hfields hopc⟩
  case h_2 hopc | h_5 hopc | h_6 hopc | h_8 hopc =>
    split_ifs at h with hzero
    cases h
    obtain ⟨hopa, hdata⟩ := hzero
    refine ⟨rfl, ?_⟩
    rw [encode, ← hopa, ← hdata]
    exact hfields hopc
  case h_3 hopc | h_7 hopc =>
    split_ifs at h with hdata
    cases h
    refine ⟨rfl, ?_⟩
    rw [encode, ← hdata]
    exact hfields hopc
  case h_4 hopc =>
    split_ifs at h with hcount htail
    cases h
    rw [packedBytes_eq_fieldBytes]
    have hlen : (fieldBytes (dataField w) (opaField w).toNat).length = (opaField w).toNat := by
      simp [fieldBytes]
    refine ⟨wf_updp_iff.mpr (by omega), ?_⟩
    rw [encode_updp (by omega), hlen, BitVec.ofNat_toNat, BitVec.setWidth_eq,
      packedField_fieldBytes ((tailClear_iff_dataField w _).mp htail)]
    exact hfields hopc
  case h_9 => cases h

/-- Settles O5: each word is evaluated. -/
theorem sampleWordsDecode : Obligations.SampleWordsDecode := by
  unfold Obligations.SampleWordsDecode
  decide

end Sys2Proof
end

section
/-! PROOFS. A word written to CMD (30_encoding.md R85, R92 to R95; 60_exceptions.md R223, R225): what a
legal word, a word of the hint space and a word that is no command do. -/

namespace Sys2Proof.Machine

theorem isCustomWord_eq (w : Word) : isCustomWord w = decide (0x80 ≤ w.toNat % 256) := by
  rw [isCustomWord, opcField_toNat]

variable {s : State} {e : Engine} {w : Word}

theorem runWord_of_decode_some {i : Instr} (h : decode w = some i) : runWord w s = exec i s := by
  rw [runWord, h]

/-- What a word that is no command does to an existing engine (60_exceptions.md R223, R225;
30_encoding.md R94). -/
theorem runWord_of_decode_none (he : s.engine? = some e) (h : decode w = none) : runWord w s =
    if e.fault = true then .next (s.setEngine { e with err := .halted })
    else if 0x80 ≤ w.toNat % 256 then .refused .customCommand
    else .next (s.setEngine { e with err := .illegalCmd }) := by
  simp only [runWord, h, illegalWrite, he, isCustomWord_eq]
  rcases e.illegalWord_cases with ⟨hf, heq⟩ | ⟨hf, heq⟩
  · simp [heq, hf, Engine.raise_of_not_fatal (r := .halted) rfl]
  · simp [heq, hf, Engine.raise_of_not_fatal (r := .illegalCmd) rfl]

theorem Engine.cmdNop_eq (e : Engine) :
    e.cmdNop = { e with err := if e.fault then .halted else .none } := by
  rcases Engine.command_cases false .done e with ⟨hf, heq⟩ | ⟨-, hn, -⟩ | ⟨hf, -, heq⟩
  · rw [Engine.cmdNop, heq, Engine.raise_of_not_fatal rfl, if_pos hf]
  · cases hn
  · rw [Engine.cmdNop, heq, Run.finish_done, hf, if_neg Bool.false_ne_true]

theorem exec_nop (he : s.engine? = some e) (opa : Byte) (data : BitVec 48) :
    exec (.nop opa data) s =
      .next (s.setEngine { e with err := if e.fault then .halted else .none }) := by
  rw [exec_eq_next he, Engine.run, Engine.cmdNop_eq]

/-- Settles O8: a word with `OPC = 0` decodes to a NOP, which has no body. -/
theorem nopChangesOnlyErr : Obligations.NopChangesOnlyErr := by
  intro s e he
  refine ⟨fun w hw => ?_, exec_nop he⟩
  have hd := decoderReadsFieldsOfWord w
  dsimp only at hd
  rw [if_pos hw] at hd
  rw [runWord_of_decode_some hd, exec_nop he]

/-- Settles O11: every premise makes the decoder answer ILLEGAL, and no such word is of the custom
space. -/
theorem illegalWordChangesOnlyErr : Obligations.IllegalWordChangesOnlyErr := by
  intro s e w he hf
  have hd := decoderReadsFieldsOfWord w
  dsimp only at hd ⊢
  intro h
  have hcustom : ¬0x80 ≤ w.toNat % 256 := by omega
  have hnone : decode w = none := by
    rw [hd]
    generalize w.toNat / 2 ^ (16 + 8 * (w.toNat / 2 ^ 8 % 256)) = tail at h ⊢
    generalize w.toNat % 256 = opc, w.toNat / 2 ^ 8 % 256 = opa, w.toNat / 2 ^ 16 = data at h ⊢
    rcases h with ⟨hopc, hfield⟩ | ⟨hopc, hdata⟩ | ⟨rfl, hcount⟩ | hopc
    · have hfield : ¬(opa = 0 ∧ data = 0) := by omega
      rcases hopc with rfl | rfl | rfl | rfl <;> exact if_neg hfield
    · rcases hopc with rfl | rfl <;> exact if_neg hdata
    · by_cases hrange : opa < 1 ∨ 6 < opa
      · exact if_pos hrange
      · exact (if_neg hrange).trans (if_pos (by omega))
    · iterate 8 rw [if_neg (by omega)]
  rw [runWord_of_decode_none he hnone, hf, if_neg Bool.false_ne_true, if_neg hcustom]
  exact ⟨rfl, rfl⟩

/-- A 64-bit write of the owner to CMD runs the word written (30_encoding.md R85). -/
theorem perform_cmdWrite {a : Access} {p : EngineInstance}
    (hp : s.instances[a.inst.toNat]? = some p) (ho : a.agent = p.owner) (hoff : a.off = 0)
    (hsize : a.size = 8) (hk : a.kind = .write w) :
    perform a s = runWord w { s with cur := a.inst } := by
  simp [perform, hp, ho, hk, hoff, hsize, writePermitted_iff, performWrite, Register.ofOffset_eq_cmd]

/-- Settles O6: the write runs the word and the word is a command; CMD reads as 0. -/
theorem stepRunsTheWrittenCommand : Obligations.StepRunsTheWrittenCommand := by
  intro s rest a p h hp ho hoff hsize
  have hp' : ({ s with pending := rest } : State).instances[a.inst.toNat]? = some p := hp
  rw [step_access h]
  refine ⟨fun w i hk hd => ?_, fun hk => ?_⟩
  · rw [perform_cmdWrite hp' ho hoff hsize hk, runWord_of_decode_some hd]
  · have hread : p.engine.hostRead Config.build a.off.toNat a.size = some 0 := by
      rw [hoff, hsize]
      exact p.engine.hostRead_register Config.build .cmd
    rw [perform_read hp' ho hk hread]

/-- Settles O60: the write runs the word, which is no command. -/
theorem illegalWordsAreReportedOrRefused : Obligations.IllegalWordsAreReportedOrRefused := by
  intro s rest a p w h hp ho hoff hsize hk s0 e
  have hp' : ({ s with pending := rest } : State).instances[a.inst.toNat]? = some p := hp
  have he : s0.engine? = some e := by simp [s0, e, State.engine?, hp]
  refine ⟨fun hw => decode_of_isCustomWord ?_, fun hd => ?_⟩
  · rw [isCustomWord_eq, decide_eq_true hw]
  · rw [step_access h, perform_cmdWrite hp' ho hoff hsize hk]
    exact runWord_of_decode_none he hd

end Sys2Proof.Machine
end

section
/-! PROOFS. The pseudo-instruction `feed` (30_encoding.md R99): its pieces are the byte sequence cut
after every sixth byte. -/

namespace Sys2Proof.Machine

/-- `inSixes` cuts six bytes off the front (30_encoding.md R99). -/
theorem inSixes_of_ne_nil : ∀ {bytes : List Byte}, bytes ≠ [] →
    inSixes bytes = bytes.take 6 :: inSixes (bytes.drop 6)
  | [], h => absurd rfl h
  | [_], _ | [_, _], _ | [_, _, _], _ | [_, _, _, _], _ | [_, _, _, _, _], _ => rfl
  | _ :: _ :: _ :: _ :: _ :: _ :: _, _ => rfl

/-- Induction on a byte sequence six bytes at a time, as `inSixes` recurses. -/
theorem sixes_induction {P : List Byte → Prop} (nil : P [])
    (step : ∀ bytes, bytes ≠ [] → P (bytes.drop 6) → P bytes) : ∀ bytes, P bytes
  | [] => nil
  | b :: rest => step _ (List.cons_ne_nil b rest) (sixes_induction nil step (rest.drop 5))
termination_by bytes => bytes.length
decreasing_by simp

theorem length_inSixes (bytes : List Byte) : (inSixes bytes).length = (bytes.length + 5) / 6 := by
  induction bytes using sixes_induction with
  | nil => rfl
  | step bytes hne ih =>
    have hpos := List.length_pos_iff.mpr hne
    rw [inSixes_of_ne_nil hne, List.length_cons, ih, List.length_drop]
    omega

theorem getElem?_inSixes (bytes : List Byte) (j : Nat) : (inSixes bytes)[j]? =
    if 6 * j < bytes.length then some ((bytes.drop (6 * j)).take 6) else none := by
  induction bytes using sixes_induction generalizing j with
  | nil => rfl
  | step bytes hne ih =>
    have hpos := List.length_pos_iff.mpr hne
    rw [inSixes_of_ne_nil hne]
    cases j with
    | zero => simp [hpos]
    | succ j =>
      have hlt : 6 * j < bytes.length - 6 ↔ 6 * (j + 1) < bytes.length := by omega
      rw [List.getElem?_cons_succ, ih, List.length_drop, List.drop_drop, Nat.add_comm 6]
      simp only [hlt, Nat.mul_succ]

theorem flatten_inSixes (bytes : List Byte) : (inSixes bytes).flatten = bytes := by
  induction bytes using sixes_induction with
  | nil => rfl
  | step bytes hne ih =>
    rw [inSixes_of_ne_nil hne, List.flatten_cons, ih, List.take_append_drop]

theorem length_of_mem_inSixes {bytes piece : List Byte} (h : piece ∈ inSixes bytes) :
    1 ≤ piece.length ∧ piece.length ≤ 6 := by
  obtain ⟨j, hj⟩ := List.mem_iff_getElem?.mp h
  rw [getElem?_inSixes] at hj
  split_ifs at hj with hlt
  obtain rfl := Option.some.inj hj
  rw [List.length_take, List.length_drop]
  omega

/-- Settles O46: count, pieces, lengths and content of `inSixes`. -/
theorem feedSplitsIntoSixes : Obligations.FeedSplitsIntoSixes := by
  intro bytes
  refine ⟨?_, fun j => ?_, fun i hi => ?_, ?_⟩
  · rw [feedCommands, List.length_map, length_inSixes]
  · rw [feedCommands, List.getElem?_map, getElem?_inSixes, apply_ite (Option.map Instr.updp)]
    rfl
  · obtain ⟨piece, hpiece, rfl⟩ := List.mem_map.mp hi
    exact wf_updp_iff.mpr (length_of_mem_inSixes hpiece)
  · rw [feedCommands, List.flatMap_map]
    exact List.flatMap_id.trans (flatten_inSixes bytes)

end Sys2Proof.Machine
end

section
/-! PROOFS. GF(2) reduction and the entries of the two tables (40_polynomial_table.md R111, R113, R114,
R120 to R124): congruent values have one remainder, a linear table is fixed by its entries at the powers
of two, the bits of an entry follow, and an entry is what the host reads. -/

namespace Sys2Proof.Machine

/-! ### Long division -/

/-- Values that differ by a multiple of the modulus have the same remainder. -/
theorem reduce_congr {m v v' : Nat} (hm : m ≠ 0) (h : IsMultiple m (v ^^^ v')) :
    reduce v m = reduce v' m := by
  have hpos : 0 < bitlen m := Nat.pos_of_ne_zero (mt bitlen_eq_zero.mp hm)
  have short (x : Nat) : bitlen (reduceLoop (bitlen m) m (bitlen x) x) < bitlen m :=
    bitlen_reduceLoop_lt rfl hpos le_rfl
  refine congrArg (BitVec.ofNat 64) (eq_of_isMultiple_xor ?_ (short v) (short v'))
  have cancel (r r' : Nat) : (v ^^^ r) ^^^ ((v ^^^ v') ^^^ (v' ^^^ r')) = r ^^^ r' := by
    rw [Nat.xor_assoc v v', Nat.xor_xor_cancel_left, Nat.xor_comm v r, Nat.xor_assoc,
      Nat.xor_xor_cancel_left]
  rw [← cancel]
  exact isMultiple_xor (reduceLoop_isMultiple ..) (isMultiple_xor h (reduceLoop_isMultiple ..))

/-- No pass runs on a value shorter than the modulus (40_polynomial_table.md R111). -/
theorem reduceLoop_of_lt {dm m fuel v : Nat} (h : bitlen v < dm) : reduceLoop dm m fuel v = v := by
  cases fuel with
  | zero => rfl
  | succ fuel => rw [reduceLoop, if_neg (by omega)]

/-- A pass shortens a value that is at least as long as the modulus (40_polynomial_table.md R111). -/
theorem bitlen_xor_aligned_lt {m v : Nat} (hm : m ≠ 0) (h : bitlen m ≤ bitlen v) :
    bitlen (v ^^^ (m <<< (bitlen v - bitlen m))) < bitlen v := by
  have hpos : 0 < bitlen m := Nat.pos_of_ne_zero (mt bitlen_eq_zero.mp hm)
  have hlen := bitlen_shiftLeft hm (bitlen v - bitlen m)
  have hxor := bitlen_xor_lt (n := bitlen v - 1) (a := v) (b := m <<< (bitlen v - bitlen m))
    (by omega) (by omega)
  omega

/-- The truncation to 64 bits removes nothing (40_polynomial_table.md R111). -/
theorem bitlen_toNat_reduce_lt {m : Nat} (hm : m ≠ 0) (hm64 : m < 2 ^ 64) (v : Nat) :
    bitlen (reduce v m).toNat < bitlen m := by
  have hpos : 0 < bitlen m := Nat.pos_of_ne_zero (mt bitlen_eq_zero.mp hm)
  have hshort : bitlen (reduceLoop (bitlen m) m (bitlen v) v) < bitlen m :=
    bitlen_reduceLoop_lt rfl hpos le_rfl
  have hfits := bitlen_le_iff.mp (hshort.le.trans (bitlen_le_iff.mpr hm64))
  rwa [reduce, BitVec.toNat_ofNat, Nat.mod_eq_of_lt hfits]

/-- Settles O20: a pass XORs a multiple of the modulus, which keeps the remainder. -/
theorem reduceIsLongDivision : Obligations.ReduceIsLongDivision := by
  intro v m hm hm64
  refine ⟨fun h => ?_, fun h => ⟨bitlen_xor_aligned_lt hm h, reduce_congr hm ?_⟩,
    bitlen_toNat_reduce_lt hm hm64 v⟩
  · rw [reduce, reduceLoop_of_lt h]
  · rw [Nat.xor_xor_cancel_left]
    exact isMultiple_shift_self m _

/-! ### Linear tables -/

/-- Every byte is an XOR of powers of two. -/
theorem byte_xor_induction {P : Byte → Prop} (bit : ∀ k < 8, P (BitVec.twoPow 8 k))
    (xor : ∀ a b, P a → P b → P (a ^^^ b)) (a : Byte) : P a := by
  have below (n : Nat) (hn : n ≤ 8) (a : Byte) (ha : a.toNat < 2 ^ n) : P a := by
    induction n generalizing a with
    | zero =>
      obtain rfl : a = 0 := BitVec.eq_of_toNat_eq (by simpa using ha)
      exact xor _ _ (bit 0 (by norm_num)) (bit 0 (by norm_num))
    | succ n ih =>
      by_cases htop : 2 ^ n ≤ a.toNat
      · have hbit : (BitVec.twoPow 8 n).toNat = 2 ^ n := by
          rw [BitVec.toNat_twoPow, Nat.mod_eq_of_lt (Nat.pow_lt_pow_right (by norm_num) hn)]
        have hlow : (a ^^^ BitVec.twoPow 8 n).toNat < 2 ^ n := by
          rw [BitVec.toNat_xor, hbit]
          exact bitlen_le_iff.mp (bitlen_xor_lt (bitlen_eq htop ha)
            (bitlen_eq le_rfl (Nat.pow_lt_pow_right (by norm_num) n.lt_succ_self)))
        have := xor _ _ (ih (by omega) _ hlow) (bit n hn)
        rwa [BitVec.xor_assoc, BitVec.xor_self, BitVec.xor_zero] at this
      · exact ih (by omega) a (Nat.lt_of_not_le htop)
  exact below 8 le_rfl a a.isLt

/-- Linear over GF(2) (40_polynomial_table.md R120). -/
def Table.IsLinear (t : Table) : Prop :=
  ∀ a b : Byte, Table.entry t (a ^^^ b) = Table.entry t a ^^^ Table.entry t b

theorem Table.IsLinear.entry_zero {t : Table} (h : Table.IsLinear t) : Table.entry t 0 = 0 := by
  have := h 0 0
  rwa [BitVec.xor_self, BitVec.xor_self] at this

/-- Linear tables that agree at the powers of two are the same (40_polynomial_table.md R120). -/
theorem Table.IsLinear.ext {t u : Table} (ht : Table.IsLinear t) (hu : Table.IsLinear u)
    (h : ∀ k < 8, Table.entry t (BitVec.twoPow 8 k) = Table.entry u (BitVec.twoPow 8 k)) : t = u :=
  Table.ext_entry (byte_xor_induction h fun a b ha hb => by rw [ht, hu, ha, hb])

/-- Reduction modulo `POLY` is linear over GF(2). -/
theorem reduce_poly_xor (c : Config) (a b : Nat) : reduce (a ^^^ b) c.poly.toNat =
    reduce a c.poly.toNat ^^^ reduce b c.poly.toNat :=
  BitVec.eq_of_toNat_eq (by rw [BitVec.toNat_xor]; simp only [toNat_reduce_poly, polyRem_xor])

theorem shiftTable_isLinear (c : Config) : Table.IsLinear (shiftTable c) := by
  intro a b
  have swap (p q x y : Word) : (p ^^^ q) ^^^ (x ^^^ y) = (p ^^^ x) ^^^ (q ^^^ y) := by ac_rfl
  simp only [shiftTable_entry, BitVec.toNat_xor, xor_shiftLeft, reduce_poly_xor, BitVec.ofNat_xor]
  exact swap ..

theorem dropTable_isLinear (c : Config) (w : Nat) : Table.IsLinear (dropTable c w) := by
  intro a b
  simp only [dropTable_entry, BitVec.toNat_xor, xor_shiftLeft, reduce_poly_xor]

/-- Settles O21: both tables are linear, and a linear table is fixed by its entries at the powers of
two. -/
theorem tablesAreLinear : Obligations.TablesAreLinear := by
  intro c w
  have hshift := shiftTable_isLinear c
  have hdrop := dropTable_isLinear c w
  exact ⟨fun a b => ⟨hshift a b, hdrop a b⟩, hshift.entry_zero, hdrop.entry_zero, fun c' w' =>
    ⟨hshift.ext (shiftTable_isLinear c'), hdrop.ext (dropTable_isLinear c' w')⟩⟩

/-! ### The shape of the entries -/

/-- The top bit of `SHIFT[i]` is not the remainder's (40_polynomial_table.md R121). -/
theorem getLsbD_shiftTable_entry_top (c : Config) (i : Byte) :
    (Table.entry (shiftTable c) i).getLsbD 63 = i.getLsbD 0 := by
  have hrem : (reduce (i.toNat <<< 63) c.poly.toNat).getLsbD 63 = false := by
    rw [← BitVec.testBit_toNat, toNat_reduce_poly, Nat.testBit_lt_two_pow (polyRem_lt c _)]
  have hbit : (BitVec.ofNat 64 (i.toNat <<< 63)).getLsbD 63 = i.getLsbD 0 := by
    rw [BitVec.getLsbD_ofNat, Nat.testBit_shiftLeft, BitVec.testBit_toNat]
    rfl
  rw [shiftTable_entry, BitVec.getLsbD_xor, hrem, hbit, Bool.false_xor]

/-- The low bits of `SHIFT[i]` are the remainder (40_polynomial_table.md R121). -/
theorem toNat_shiftTable_entry_mod (c : Config) (i : Byte) :
    (Table.entry (shiftTable c) i).toNat % 2 ^ 63 = polyRem c (i.toNat <<< 63) := by
  have hlow : (i.toNat <<< 63) % 2 ^ 64 % 2 ^ 63 = 0 := by
    rw [Nat.shiftLeft_eq, Nat.mod_mod_of_dvd _ (Nat.pow_dvd_pow 2 (by norm_num)), Nat.mul_mod_left]
  rw [shiftTable_entry, BitVec.toNat_xor, toNat_reduce_poly, BitVec.toNat_ofNat, Nat.xor_mod_two_pow,
    hlow, Nat.xor_zero, Nat.mod_eq_of_lt (polyRem_lt c _)]

/-- `x^63` and `P` differ in their low bits only: `x^63 mod P` is `P` without its top bit
(40_polynomial_table.md R121). -/
theorem polyRem_two_pow_63 (c : Config) : polyRem c (2 ^ 63) = 2 ^ 63 ^^^ c.poly.toNat := by
  refine polyRem_unique ?_ ?_
  · rw [Nat.xor_xor_cancel_left]
    exact isMultiple_shift_self _ 0
  · exact bitlen_le_iff.mp (bitlen_xor_lt (bitlen_eq le_rfl (by norm_num)) (bitlen_poly c))

/-- `SHIFT[1]` is `POLY` (40_polynomial_table.md R121). -/
theorem shiftTable_entry_one (c : Config) : Table.entry (shiftTable c) 1 = c.poly := by
  refine BitVec.eq_of_toNat_eq ?_
  rw [shiftTable_entry, BitVec.toNat_xor, toNat_reduce_poly]
  show polyRem c (2 ^ 63) ^^^ 2 ^ 63 = _
  rw [polyRem_two_pow_63, Nat.xor_comm, Nat.xor_xor_cancel_left]

/-- Settles O22: an entry is the remainder, below bit 63, and bit 0 of its index at bit 63. -/
theorem shiftTableShape : Obligations.ShiftTableShape := by
  refine fun c => ⟨fun i => ⟨getLsbD_shiftTable_entry_top c i, ?_⟩, shiftTable_entry_one c⟩
  rw [toNat_shiftTable_entry_mod, toNat_reduce_poly]

theorem toNat_dropTable_entry (c : Config) (w : Nat) (i : Byte) :
    (Table.entry (dropTable c w) i).toNat = polyRem c (i.toNat <<< (8 * w)) := by
  rw [dropTable_entry, toNat_reduce_poly]

theorem shiftLeft_lt_of_bitlen {v k n : Nat} (h : k + bitlen v ≤ n) : v <<< k < 2 ^ n :=
  calc v <<< k = v * 2 ^ k := Nat.shiftLeft_eq ..
    _ < 2 ^ bitlen v * 2 ^ k := Nat.mul_lt_mul_of_pos_right (lt_two_pow_bitlen v) (Nat.two_pow_pos k)
    _ = 2 ^ (bitlen v + k) := (Nat.pow_add ..).symm
    _ ≤ 2 ^ n := Nat.pow_le_pow_right (by norm_num) (by omega)

/-- Settles O23: a remainder is below `2^63`, and a value below `2^63` is its own remainder. -/
theorem dropTableShape : Obligations.DropTableShape := by
  intro c w i
  rw [toNat_dropTable_entry]
  refine ⟨polyRem_lt c _, dropTable_entry c w i, fun h => polyRem_of_lt ?_⟩
  refine shiftLeft_lt_of_bitlen ?_
  have hbyte : bitlen i.toNat ≤ 8 := bitlen_le_iff.mpr i.isLt
  rcases h with h | h | ⟨rfl, h⟩
  · exact h
  · omega
  · have hseven : bitlen i.toNat ≤ 7 := bitlen_le_iff.mpr h
    omega

/-! ### Reads of table entries -/

/-- Settles O53: the table entries are registers at those offsets, and 0x808 is that of `SHIFT[1]`. -/
theorem tableEntriesAreReadable : Obligations.TableEntriesAreReadable := by
  refine fun c e i => ⟨e.hostRead_register c (.shift i), e.hostRead_register c (.drop i),
    fun hconf htables => (e.hostRead_register c (.shift 1)).trans ?_⟩
  rw [Engine.readRegister, if_pos hconf, htables.1, shiftTable_entry_one]

end Sys2Proof.Machine
end

section
/-! PROOFS. CONFIGURE and the tables (40_polynomial_table.md R118, R119; 42_chunker.md R151, R152): what
it does with acceptable and with other options, and what every other command leaves as CONFIGURE made
it. -/

namespace Sys2Proof.Machine

open Sys2Proof.Spec

/-! ### The outcomes of CONFIGURE -/

section Configure

variable {c : Config} {e : Engine}

/-- CONFIGURE of acceptable options constructs the engine (42_chunker.md R152). -/
theorem Engine.cmdCfg_of_acceptable (hf : e.fault = false) (h : acceptable c e) :
    e.cmdCfg c = { e.construct c with err := .none } := by
  rw [Engine.cmdCfg, Engine.command_run (n := false) hf nofun, Engine.checkConfig_eq_none_iff.mpr h]
  rfl

/-- CONFIGURE of other options reports the outcome of `CheckConfig()` (42_chunker.md R152). -/
theorem Engine.cmdCfg_of_checkConfig (hf : e.fault = false) {r : ErrCode}
    (h : e.checkConfig c = some r) : e.cmdCfg c = e.raise r := by
  rw [Engine.cmdCfg, Engine.command_run (n := false) hf nofun, h]
  rfl

/-- CONFIGURE either reports an outcome other than success or constructs the engine. -/
theorem Engine.cmdCfg_fails_or_constructs (c : Config) (e : Engine) :
    (∃ r, r ≠ .none ∧ e.cmdCfg c = e.raise r) ∨ e.cmdCfg c = { e.construct c with err := .none } := by
  cases hf : e.fault with
  | true => exact .inl ⟨.halted, by decide, Engine.command_halted hf⟩
  | false =>
    cases h : e.checkConfig c with
    | none => exact .inr (Engine.cmdCfg_of_acceptable hf (Engine.checkConfig_eq_none_iff.mp h))
    | some r =>
      refine .inl ⟨r, ?_, Engine.cmdCfg_of_checkConfig hf h⟩
      rcases Engine.checkConfig_eq_some h with rfl | rfl <;> decide

/-- With the average a power of two, the window is what `CheckConfig()` rejects (42_chunker.md R151). -/
theorem Engine.checkConfig_eq_cfgWindow (havg : ∃ k, e.cfgAvg.toNat = 2 ^ k) (h : ¬acceptable c e) :
    e.checkConfig c = some .cfgWindow := by
  have hnone := mt Engine.checkConfig_eq_none_iff.mp h
  unfold Engine.checkConfig at hnone ⊢
  rw [if_neg fun hbad => (average_check_iff _).mp hbad havg] at hnone ⊢
  split_ifs at hnone ⊢ with hrange hstrategy
  · rfl
  · rfl
  · exact absurd rfl hnone

end Configure

/-! ### The tables depend on `POLY` and the window alone -/

section Poly

variable {c c' : Config} (h : c'.poly = c.poly)
include h

theorem shiftTable_congr : shiftTable c' = shiftTable c :=
  Table.ext_entry fun i => by rw [shiftTable_entry, shiftTable_entry, h]

theorem dropTable_congr (w : Nat) : dropTable c' w = dropTable c w :=
  Table.ext_entry fun i => by rw [dropTable_entry, dropTable_entry, h]

/-- `POLY` is all that construction takes from the build. -/
theorem Engine.construct_congr (e : Engine) : e.construct c' = e.construct c := by
  simp only [Engine.construct, Engine.buildTables, shiftTable_congr h, dropTable_congr h]

/-- Builds of the same `POLY` configure alike where both accept the options. -/
theorem Engine.cmdCfg_congr {e : Engine} (hf : e.fault = false) (hok : acceptable c e)
    (hok' : acceptable c' e) : e.cmdCfg c = e.cmdCfg c' := by
  rw [Engine.cmdCfg_of_acceptable hf hok, Engine.cmdCfg_of_acceptable hf hok', Engine.construct_congr h]

end Poly

/-- Settles O19: `CheckConfig()` alone reads the strategy, and construction only `POLY`. -/
theorem tableStrategyIsUnobservable : Obligations.TableStrategyIsUnobservable := by
  refine fun c e hf havg => ⟨fun hs hpos hcap => ?_, fun hs => ⟨fun hw => ?_, fun hw => ?_⟩⟩
  · have hok : acceptable c e := ⟨havg, hpos, hcap, fun hs' => absurd (hs.symm.trans hs') (by decide)⟩
    rw [Engine.cmdCfg_of_acceptable hf hok]
    exact ⟨rfl, rfl, rfl⟩
  · have h64 : e.cfgWindow.toNat = 64 := congrArg BitVec.toNat hw
    have hpos : 1 ≤ e.cfgWindow.toNat := by omega
    have hcap : e.cfgWindow.toNat ≤ c.winCap := h64.trans_le (c.const64_legal hs)
    have hok : acceptable c e := ⟨havg, hpos, hcap, fun _ => h64⟩
    have hdrop : (e.construct c).drop = dropTable c 64 := h64 ▸ e.construct_drop c
    have hbuilt := Engine.cmdCfg_of_acceptable hf hok
    rw [hbuilt]
    refine ⟨rfl, rfl, hdrop,
      hbuilt.symm.trans (Engine.cmdCfg_congr ?_ hf hok ⟨havg, hpos, hcap, ?_⟩)⟩
    · rfl
    · nofun
  · have hbad : ¬acceptable c e := fun ⟨_, _, _, h64⟩ => hw (BitVec.eq_of_toNat_eq (h64 hs))
    rw [Engine.cmdCfg_of_checkConfig hf (Engine.checkConfig_eq_cfgWindow havg hbad),
      Engine.raise_of_not_fatal rfl]

/-! ### What only CONFIGURE writes -/

/-- The part of an engine that no command but CONFIGURE writes: `CONFIGURED`, the options and the tables
(10_state.md R22 to R25; 40_polynomial_table.md R118). -/
def Engine.configuration (e : Engine) : Engine :=
  { Engine.reset with
    configured := e.configured
    cfgWindow := e.cfgWindow, cfgMin := e.cfgMin, cfgAvg := e.cfgAvg, cfgMax := e.cfgMax
    cfgFlags := e.cfgFlags
    actWindow := e.actWindow, actMin := e.actMin, actAvg := e.actAvg, actMax := e.actMax
    actFlags := e.actFlags
    shift := e.shift, drop := e.drop }

section Configuration

variable {c : Config} {e : Engine}

theorem Run.configuration_finish (r : Run) : r.finish.configuration = r.engine.configuration := by
  cases r <;> rfl

/-- The guards and the report write nothing of the configuration. -/
theorem Engine.configuration_command (n : Bool) {body : Engine → Run}
    (hbody : (body e).engine.configuration = e.configuration) :
    (e.command n body).configuration = e.configuration := by
  rcases Engine.command_cases n body e with ⟨-, heq⟩ | ⟨-, -, -, heq⟩ | ⟨-, -, heq⟩ <;> rw [heq]
  · rfl
  · rfl
  · rw [Run.configuration_finish, hbody]

theorem Engine.configuration_byteStep (b : Byte) :
    (e.byteStep c b).engine.configuration = e.configuration := by
  rcases Engine.byteStep_cases c e b with ⟨-, heq⟩ | ⟨-, -, heq⟩ | ⟨-, -, -, heq⟩ |
    ⟨-, -, -, -, heq⟩ | ⟨-, -, -, -, heq⟩ <;> rw [heq] <;> simp [Run.engine, Engine.configuration]

theorem Engine.configuration_feedBytes (bytes : List Byte) :
    (Engine.feedBytes c bytes e).engine.configuration = e.configuration := by
  induction bytes generalizing e with
  | nil => rfl
  | cons b rest ih =>
    have hstep := Engine.configuration_byteStep (c := c) (e := e) b
    cases heq : e.byteStep c b with
    | done e' => rw [Engine.feedBytes_cons_done heq, ih, ← hstep, heq, Run.engine]
    | raised r e' => rw [Engine.feedBytes_cons_raised heq, ← hstep, heq]

theorem Engine.configuration_dequeue : (e.dequeue c).configuration = e.configuration := by
  unfold Engine.dequeue
  split <;> rfl

theorem Engine.configuration_cmdFin : (e.cmdFin c).configuration = e.configuration := by
  refine Engine.configuration_command true ?_
  split_ifs
  · rfl
  · rw [Run.engine, Engine.closeStream_eq]
    rfl

/-- No command but CONFIGURE writes anything of the configuration. -/
theorem Engine.configuration_run {i : Instr} (hi : i ≠ .cfg) :
    (e.run c i).configuration = e.configuration := by
  cases i with
  | nop opa data => exact Engine.configuration_command (body := .done) false rfl
  | cfg => exact absurd rfl hi
  | upd b =>
    exact Engine.configuration_command (body := fun e => e.byteStep c b) true
      (Engine.configuration_byteStep b)
  | updp bytes => exact Engine.configuration_command true (Engine.configuration_feedBytes bytes)
  | fin => exact Engine.configuration_cmdFin
  | pop =>
    exact Engine.configuration_command (body := fun e => .done (e.dequeue c)) true
      Engine.configuration_dequeue
  | roll b => exact Engine.configuration_command (body := fun e => .done (e.roll b)) true rfl
  | hrst => exact Engine.configuration_command (body := fun e => .done e.hashReset) true rfl

/-- A command other than a CONFIGURE that succeeds leaves both tables (40_polynomial_table.md R118). -/
theorem Engine.tables_run {i : Instr} (h : i ≠ .cfg ∨ (e.run c i).err ≠ .none) :
    (e.run c i).shift = e.shift ∧ (e.run c i).drop = e.drop := by
  by_cases hi : i = .cfg
  · subst hi
    have herr : (e.cmdCfg c).err ≠ .none := h.resolve_left (absurd rfl)
    rw [Engine.run]
    rcases Engine.cmdCfg_fails_or_constructs c e with ⟨r, -, heq⟩ | heq
    · rw [heq]
      exact ⟨rfl, rfl⟩
    · exact absurd (congrArg Engine.err heq) herr
  · have hkept := Engine.configuration_run (c := c) (e := e) hi
    have hshift := congrArg Engine.shift hkept
    have hdrop := congrArg Engine.drop hkept
    exact ⟨hshift, hdrop⟩

/-- A CONFIGURE that succeeds builds the tables (40_polynomial_table.md R118). -/
theorem Engine.tablesBuilt_cmdCfg (h : (e.cmdCfg c).err = .none) : tablesBuilt c (e.cmdCfg c) := by
  rcases Engine.cmdCfg_fails_or_constructs c e with ⟨r, hr, heq⟩ | heq
  · exact absurd ((congrArg Engine.err heq).symm.trans h) hr
  · rw [heq]
    exact ⟨rfl, rfl⟩

end Configuration

/-- Settles O18: the tables are part of the configuration, and only `POLY` of a build is in them. -/
theorem onlyConfigureWritesTables : Obligations.OnlyConfigureWritesTables := by
  intro c e i
  refine ⟨Engine.tables_run, fun hi h => ?_, fun c' hpoly =>
    ⟨shiftTable_congr hpoly, dropTable_congr hpoly⟩⟩
  subst hi
  exact Engine.tablesBuilt_cmdCfg h

end Sys2Proof.Machine
end

section
/-! PROOFS. The rolling hash and its two commands (41_rolling_hash.md R131 to R142): the effect of ROLL
and HASH_RESET on the state, the bound on the hash, and the hash of any rolled byte sequence as the
remainder of its last `W` bytes. -/

namespace Sys2Proof.Machine

open Sys2Proof.Spec

variable {c : Config} {s : State} {e : Engine}

/-! ### ROLL -/

theorem exec_roll (he : s.engine? = some e) (hr : ready e) (b : Byte) :
    exec (.roll b) s = .next (s.setEngine { e.roll b with err := .none }) := by
  rw [exec_eq_next he, Engine.run, Engine.cmdRoll, Engine.command_run hr.2 fun _ => hr.1,
    Run.finish_done]

/-- 41_rolling_hash.md R131, in numbers: `top` is the number `HASH >> 55` taken as a byte. -/
theorem Engine.toNat_roll_hash_eq_xor (e : Engine) (b : Byte) :
    (e.roll b).hash.toNat = ((e.hash.toNat <<< 8) % 2 ^ 64) ^^^ b.toNat ^^^
      (Table.entry e.drop (Memory.read e.win e.cursor.toNat)).toNat ^^^
      (Table.entry e.shift (BitVec.ofNat 8 (e.hash.toNat >>> 55))).toNat := by
  have htop : e.hash.extractLsb' 55 8 = BitVec.ofNat 8 (e.hash.toNat >>> 55) := rfl
  have hb : b.toWord.toNat = b.toNat := BitVec.toNat_setWidth_of_le (by norm_num)
  simp only [Engine.roll_hash, BitVec.toNat_xor, BitVec.toNat_shiftLeft, htop, hb]

/-- The top byte of a hash below `2^63` (41_rolling_hash.md R139). -/
theorem shiftRight_55_lt {h : Nat} (hh : h < 2 ^ 63) : h >>> 55 < 256 := by
  rw [Nat.shiftRight_eq_div_pow]
  omega

/-- Settles O24: ROLL passes both guards and its body is `Roll(b)`. -/
theorem rollUpdatesHashWindowAndCursor : Obligations.RollUpdatesHashWindowAndCursor := by
  intro s e b he hr hwf hhash hcur
  refine ⟨_, exec_roll he hr b, rfl, e.toNat_roll_hash_eq_xor b, shiftRight_55_lt hhash,
    e.toNat_roll_cursor b hcur, fun j => ?_⟩
  exact Memory.read_write hwf e.cursor.toNat j b

/-! ### HASH_RESET -/

/-- The four commands without operands have one legal word each (30_encoding.md R92). -/
theorem onlyWord_of_decode {opc : Nat} {i : Instr} (he : s.engine? = some e)
    (hopc : opc = 1 ∨ opc = 4 ∨ opc = 5 ∨ opc = 7) (hd : decode (BitVec.ofNat 64 opc) = some i) :
    onlyWord opc i s e := by
  refine ⟨hd, fun hf w hw hne => ?_⟩
  have hfield : w.toNat / 2 ^ 8 % 256 ≠ 0 ∨ w.toNat / 2 ^ 16 ≠ 0 := by omega
  exact (illegalWordChangesOnlyErr s e w he hf (.inl ⟨by omega, hfield⟩)).1

/-- Settles O25: the two guards of HASH_RESET and its body. -/
theorem hashResetClearsHashAndWindow : Obligations.HashResetClearsHashAndWindow := by
  intro s e he
  rw [exec_eq_next he, Engine.run, Engine.cmdHrst]
  refine ⟨onlyWord_of_decode he (by decide) (by decide), fun hf => ?_, fun hf hc => ?_, fun hr => ?_⟩
  · rw [Engine.command_halted hf, Engine.raise_of_not_fatal rfl]
  · rw [Engine.command_notConfigured hf rfl hc, Engine.raise_of_not_fatal rfl]
  · rw [Engine.command_run hr.2 fun _ => hr.1]
    exact ⟨_, rfl, rfl, fun _ => rfl⟩

/-! ### The bound on the hash -/

/-- With the tables of the build, bit 63 of the shifted hash is cancelled by that of the shift entry, and
neither a byte nor a drop entry has one (41_rolling_hash.md R139). -/
theorem Engine.msb_roll_hash (h : tablesBuilt c e) (b : Byte) : (e.roll b).hash.msb = false := by
  obtain ⟨hs, hd⟩ := h
  have hdrop (i : Byte) : (Table.entry (dropTable c e.optW) i).msb = false := by
    rw [BitVec.msb_eq_false_iff_two_mul_lt, toNat_dropTable_entry]
    have := polyRem_lt c (i.toNat <<< (8 * e.optW))
    omega
  have hbyte : b.toWord.msb = false := by simp [BitVec.msb_setWidth]
  have hshifted : (e.hash <<< 8).msb = e.hash.getLsbD 55 := by
    simp [BitVec.msb_eq_getLsbD_last]
  have hshift : (Table.entry (shiftTable c) (e.hash.extractLsb' 55 8)).msb = e.hash.getLsbD 55 :=
    (getLsbD_shiftTable_entry_top c _).trans (by simp)
  rw [Engine.roll_hash, hs, hd, BitVec.msb_xor, BitVec.msb_xor, BitVec.msb_xor, hshifted, hbyte,
    hdrop, hshift, Bool.xor_false, Bool.xor_false, Bool.xor_self]

/-- Settles O26: bit 63 of the hash is clear after a roll. -/
theorem rollKeepsHashBelowDegree : Obligations.RollKeepsHashBelowDegree := fun _ e b ht hh =>
  ⟨BitVec.toNat_lt_of_msb_false (e.msb_roll_hash ht b), shiftRight_55_lt hh⟩

/-! ### The last bytes of a sequence -/

theorem lastN_append_of_le {n : Nat} (l : List Byte) {l' : List Byte} (h : n ≤ l'.length) :
    lastN n (l ++ l') = lastN n l' := by
  rw [lastN, lastN, List.length_append, Nat.add_sub_assoc h, List.drop_length_add_append]

theorem lastN_length (l : List Byte) : lastN l.length l = l := by
  rw [lastN, Nat.sub_self, List.drop_zero]

/-! ### A sequence of rolls -/

@[simp] theorem Engine.rollAll_nil (e : Engine) : e.rollAll [] = e := rfl

@[simp] theorem Engine.rollAll_cons (e : Engine) (b : Byte) (r : List Byte) :
    e.rollAll (b :: r) = (e.roll b).rollAll r := rfl

@[simp] theorem Engine.rollAll_optW (e : Engine) (r : List Byte) : (e.rollAll r).optW = e.optW := by
  induction r generalizing e with
  | nil => rfl
  | cons b r ih => exact ih (e.roll b)

theorem Engine.Rolling.rollAll (h : e.Rolling c) (r : List Byte) : (e.rollAll r).Rolling c := by
  induction r generalizing e with
  | nil => exact h
  | cons b r ih => exact ih (h.roll b)

theorem Engine.HashIsWindowRem.rollAll (hr : e.Rolling c) (h : e.HashIsWindowRem c) (r : List Byte) :
    (e.rollAll r).HashIsWindowRem c := by
  induction r generalizing e with
  | nil => exact h
  | cons b r ih => exact ih (hr.roll b) (h.roll b hr)

/-- The window holds the last `W` of the bytes it held and those rolled (41_rolling_hash.md R140). -/
theorem Engine.windowBytes_rollAll (h : e.Rolling c) (r : List Byte) :
    (e.rollAll r).windowBytes = lastN e.optW (e.windowBytes ++ r) := by
  induction r generalizing e with
  | nil => rw [Engine.rollAll_nil, List.append_nil, ← Engine.length_windowBytes, lastN_length]
  | cons b r ih =>
    obtain ⟨oldest, rest, hw⟩ : ∃ oldest rest, e.windowBytes = oldest :: rest :=
      ⟨_, _, Engine.windowBytes_eq_cons h.cursor⟩
    have hlen : e.optW = rest.length + 1 := by rw [← Engine.length_windowBytes, hw, List.length_cons]
    have hroll : (e.roll b).windowBytes ++ r = rest ++ b :: r := by
      rw [Engine.windowBytes_roll b h.cursor h.win, hw, List.tail_cons, List.append_assoc,
        List.singleton_append]
    calc ((e.roll b).rollAll r).windowBytes
        = lastN e.optW (rest ++ b :: r) := by rw [ih (h.roll b), hroll, Engine.roll_optW]
      _ = lastN e.optW ([oldest] ++ (rest ++ b :: r)) :=
          (lastN_append_of_le _ (by simp [hlen])).symm
      _ = lastN e.optW (e.windowBytes ++ b :: r) := by rw [hw]; rfl

/-! ### Rolling from a cleared hash -/

section Cleared

variable (h : cleared e)
include h

theorem Engine.windowBytes_of_cleared : e.windowBytes = List.replicate e.optW 0 := by
  obtain ⟨-, hwin, -, -⟩ := h
  simp [Engine.windowBytes, hwin, List.map_const']

theorem Engine.hashIsWindowRem_of_cleared (c : Config) : e.HashIsWindowRem c := by
  obtain ⟨hhash, hwin, hwf, -⟩ := h
  exact Engine.hashIsWindowRem_of_clear hhash (Memory.ext_of_read hwf Memory.wf_nil hwin)

variable (ht : tablesBuilt c e)
include ht

theorem Engine.rolling_of_cleared : e.Rolling c := by
  obtain ⟨hhash, -, hwf, hcur⟩ := h
  exact ⟨ht, hcur, by rw [hhash]; decide, hwf⟩

/-- The window form of 41_rolling_hash.md R140. -/
theorem Engine.rollAll_hashIsWindowRem (r : List Byte) : (e.rollAll r).HashIsWindowRem c :=
  (Engine.hashIsWindowRem_of_cleared h c).rollAll (Engine.rolling_of_cleared h ht) r

/-- The sequence form of 41_rolling_hash.md R140: no cursor appears in it (R141). -/
theorem Engine.rollAll_hash (r : List Byte) :
    (e.rollAll r).hash = rabinRem c (lastN e.optW (List.replicate e.optW 0 ++ r)) := by
  rw [Engine.rollAll_hashIsWindowRem h ht r,
    Engine.windowBytes_rollAll (Engine.rolling_of_cleared h ht) r, Engine.windowBytes_of_cleared h]

/-- The hash after at least `W` bytes is the remainder of the last `W` (41_rolling_hash.md R142). -/
theorem Engine.rollAll_hash_of_le {r : List Byte} (hr : e.optW ≤ r.length) :
    (e.rollAll r).hash = rabinRem c (lastN e.optW r) := by
  rw [Engine.rollAll_hash h ht r, lastN_append_of_le _ hr]

end Cleared

/-- A hash reset clears the hash and leaves the cursor in the window (41_rolling_hash.md R135). -/
theorem Engine.Rolling.cleared_hashReset (h : e.Rolling c) : cleared e.hashReset :=
  ⟨rfl, fun _ => rfl, Memory.wf_nil, h.cursor⟩

/-- Settles O27: the window starts as `W` zeros with remainder 0, and every roll keeps both forms. -/
theorem hashIsRabinRemainderOfWindow : Obligations.HashIsRabinRemainderOfWindow := fun _ _ r ht h =>
  ⟨Engine.rollAll_hash h ht r, Engine.rollAll_hashIsWindowRem h ht r⟩

/-- Settles O28: the remainder that both hashes are does not mention the cursor. -/
theorem hashIsIndependentOfCursor : Obligations.HashIsIndependentOfCursor := by
  intro c e cursor r ht h hcur
  have hmoved : cleared { e with cursor := cursor } := by
    obtain ⟨hhash, hwin, hwf, -⟩ := h
    exact ⟨hhash, hwin, hwf, hcur⟩
  exact (Engine.rollAll_hash hmoved ht r).trans (Engine.rollAll_hash h ht r).symm

/-- Settles O29: both hashes are the remainder of the last `W` bytes of `r'`. -/
theorem rollingEquivalence : Obligations.RollingEquivalence := by
  intro c e r r' ht h hle
  have hrolling := (Engine.rolling_of_cleared h ht).rollAll (r ++ r')
  have hall : e.optW ≤ (r ++ r').length := by rw [List.length_append]; omega
  have hW : (e.rollAll (r ++ r')).hashReset.optW = e.optW := e.rollAll_optW (r ++ r')
  have htables : tablesBuilt c (e.rollAll (r ++ r')).hashReset := hrolling.tables
  rw [Engine.rollAll_hash_of_le h ht hall, lastN_append_of_le r hle,
    Engine.rollAll_hash_of_le hrolling.cleared_hashReset htables (hW.trans_le hle), hW]

end Sys2Proof.Machine
end

section
/-! PROOFS. CONFIGURE on one engine (42_chunker.md R151, R153): the outcomes of its check in order, and
the engine it constructs. -/

namespace Sys2Proof.Machine

open Sys2Proof.Spec

variable {c : Config} {e : Engine}

/-- An average that is no power of two is rejected before the window is looked at (42_chunker.md R151). -/
theorem Engine.checkConfig_eq_cfgAvg (h : ¬∃ k, e.cfgAvg.toNat = 2 ^ k) :
    e.checkConfig c = some .cfgAvg := by
  rw [Engine.checkConfig, if_pos ((average_check_iff _).mpr h)]

/-- Settles O15: with the average accepted, a bad window is all that makes options unacceptable. -/
theorem configureChecksOptionsInOrder : Obligations.ConfigureChecksOptionsInOrder := by
  refine fun c e hf => ⟨fun havg => ?_, fun havg hwin => ?_, fun hok => ?_⟩
  · rw [Engine.cmdCfg_of_checkConfig hf (Engine.checkConfig_eq_cfgAvg havg),
      Engine.raise_of_not_fatal rfl]
  · have hbad : ¬acceptable c e := by
      rintro ⟨-, hpos, hcap, hconst⟩
      rcases hwin with h0 | hlt | ⟨hs, h64⟩
      · omega
      · omega
      · exact h64 (hconst hs)
    rw [Engine.cmdCfg_of_checkConfig hf (Engine.checkConfig_eq_cfgWindow havg hbad),
      Engine.raise_of_not_fatal rfl]
  · rw [Engine.cmdCfg_of_acceptable hf hok]

/-- Only the lowest bit of a number is left in 64 bits once it is moved to bit 63
(40_polynomial_table.md R113). -/
theorem ofNat_shiftLeft_63 (n : Nat) :
    BitVec.ofNat 64 (n <<< 63) = BitVec.ofNat 64 ((n % 2) <<< 63) := by
  refine BitVec.eq_of_toNat_eq ?_
  simp only [BitVec.toNat_ofNat, Nat.shiftLeft_eq]
  omega

/-- Settles O16: the engine is the constructed one, whose fields are those of `Engine.construct` and
whose tables are read entry by entry. -/
theorem configureConstructsEngine : Obligations.ConfigureConstructsEngine := by
  intro s e he hf hok
  refine ⟨{ e.construct Config.build with err := .none }, ?_, ⟨rfl, hf, rfl⟩,
    ⟨rfl, rfl, rfl, rfl, rfl⟩, ⟨rfl, rfl, rfl, rfl, Nat.and_one_is_mod _⟩, fun i => ?_,
    dropTable_entry _ _, ⟨rfl, fun _ => rfl, rfl⟩, ⟨rfl, rfl, rfl⟩, ⟨rfl, rfl, rfl⟩,
    ⟨rfl, rfl, fun _ => rfl⟩, ⟨rfl, rfl, fun _ => rfl⟩⟩
  · rw [exec_eq_next he, Engine.run, Engine.cmdCfg_of_acceptable hf hok]
  · rw [← ofNat_shiftLeft_63]
    exact shiftTable_entry _ i

end Sys2Proof.Machine
end

section
/-! PROOFS. One byte of the stream (42_chunker.md R160 to R173): the model's tests as the spec's
conditions on exact naturals, and the three ways UPDATE_BYTE ends a byte. -/

namespace Sys2Proof.Machine

open Sys2Proof.Spec

/-! ### The zip-signature match -/

/-- Every match count below 4 is the index of the byte that advances it (00_scope.md R17). -/
theorem zipSig_getElem?_eq_some_iff (cnt : Fin 5) (b : Byte) :
    zipSig[cnt.val]? = some b ↔ (cnt.val = 0 ∧ b = 0x50) ∨ (cnt.val = 1 ∧ b = 0x4B) ∨
      (cnt.val = 2 ∧ b = 0x03) ∨ (cnt.val = 3 ∧ b = 0x04) := by
  fin_cases cnt <;> simp [zipSig, eq_comm]

/-- 42_chunker.md R162: the machine's match counter is the spec's. -/
theorem val_zipAdvance (c : Config) (on : Bool) (cnt : Fin 5) (b : Byte) :
    (zipAdvance c on cnt b).val = nextMatch c.zipRematch on cnt.val b := by
  have hstart : zipSig[0]? = some b ↔ b = 0x50 := by simp [zipSig, eq_comm]
  have hstill : on = false ∨ cnt.val = 4 ↔ ¬(on = true ∧ cnt.val < 4) := by
    have := cnt.isLt
    cases on
    · simp
    · simp only [reduceCtorEq, false_or, true_and]
      omega
  by_cases hcount : on = true ∧ cnt.val < 4
  · simp only [zipAdvance, nextMatch, dif_pos hcount, if_neg (hstill.not.mpr (not_not.mpr hcount)),
      zipSig_getElem?_eq_some_iff, hstart]
    split_ifs <;> rfl
  · rw [zipAdvance, dif_neg hcount, nextMatch, if_pos (hstill.mpr hcount)]

/-- Settles O30: the two readings are runs of the counter over five bytes. -/
theorem zipMatchCounter : Obligations.ZipMatchCounter := ⟨val_zipAdvance, by decide, by decide⟩

variable {c : Config} {s : State} {e : Engine} {b : Byte}

/-- The signature is complete after step 2 exactly when the spec's counter is 4. -/
theorem Engine.seenZip_afterMatch_iff :
    (e.afterMatch c b).seenZip = true ↔ matchAfter c e b = 4 := by
  rw [Engine.seenZip, beq_iff_eq, ← Fin.val_inj, Engine.zipStep_zipCnt, val_zipAdvance]
  rfl

theorem Engine.seenZip_afterMatch_eq_false_iff :
    (e.afterMatch c b).seenZip = false ↔ matchAfter c e b ≠ 4 := by
  rw [← Bool.not_eq_true, Engine.seenZip_afterMatch_iff]

/-! ### The fast skip -/

/-- The spec's `S0` is the model's first tested byte (42_chunker.md R172). -/
theorem Engine.firstTested_eq (c : Config) (e : Engine) :
    e.firstTested c = if e.optMin < e.optW then 1
      else if c.skipCompare = .pre then e.optMin - e.optW + 2 else e.optMin - e.optW + 1 := by
  unfold Engine.firstTested
  by_cases h : e.optMin < e.optW
  · rw [if_pos h, if_neg (by omega)]
  · rw [if_neg h, if_pos (by omega)]
    cases c.skipCompare <;> rfl

/-- The count of step 3 stays within `MIN - W` exactly before byte `S0` (42_chunker.md R163, R172). -/
theorem Engine.skip_count_le_iff (c : Config) (e : Engine) :
    e.chunkSize.toNat + (if c.skipCompare = .post then 1 else 0) + e.optW ≤ e.optMin ↔
      e.chunkSize.toNat + 1 < e.firstTested c := by
  rw [Engine.firstTested_eq]
  cases c.skipCompare <;> simp only [reduceCtorEq, if_true, if_false] <;> split_ifs <;> omega

/-- The spec's fast-skip test, by the number of the byte in its chunk. -/
theorem skips_iff : skips c e b ↔ e.chunkSize.toNat + 1 < e.firstTested c ∧ matchAfter c e b ≠ 4 :=
  and_congr_left' (Engine.skip_count_le_iff c e)

/-- The machine's fast-skip test is the spec's (42_chunker.md R160, R163). -/
theorem Engine.fastSkips_afterMatch_iff : (e.afterMatch c b).fastSkips c = true ↔ skips c e b := by
  rw [Engine.fastSkips, Bool.and_eq_true, decide_eq_true_iff, Bool.not_eq_true',
    Engine.seenZip_afterMatch_eq_false_iff, skips]
  cases c.skipCompare <;> rfl

/-! ### The boundary test -/

/-- What the boundary test of a byte needs to be exact: the chunk's counter does not wrap at this byte
and `AVG - 1` does not borrow (10_state.md R28, R44). -/
structure Engine.CountsExactly (e : Engine) : Prop where
  total : e.total.toNat < 2 ^ 64 - 1
  chunk : e.chunkSize.toNat ≤ e.total.toNat
  average : e.actAvg ≠ 0

theorem Engine.CountsExactly.toNat_chunkSize_succ (h : e.CountsExactly) :
    (e.chunkSize + 1).toNat = e.chunkSize.toNat + 1 := by
  obtain ⟨ht, hle, -⟩ := h
  exact BitVec.toNat_add_of_lt (show _ + 1 < _ by omega)

theorem Engine.CountsExactly.toNat_optMask (h : e.CountsExactly) :
    e.optMask.toNat = e.optAvg - 1 := by
  have hpos : e.actAvg.toNat ≠ 0 := fun h0 => h.average (BitVec.eq_of_toNat_eq h0)
  exact BitVec.toNat_sub_of_le (BitVec.le_def.mpr (Nat.one_le_iff_ne_zero.mpr hpos))

theorem Engine.afterRoll_optMin : (e.afterRoll c b).optMin = e.optMin := by simp [Engine.optMin]

theorem Engine.afterRoll_optMax : (e.afterRoll c b).optMax = e.optMax := by simp [Engine.optMax]

theorem Engine.afterRoll_optMask : (e.afterRoll c b).optMask = e.optMask := by simp [Engine.optMask]

/-- The machine's boundary test is the spec's (42_chunker.md R166). -/
theorem Engine.atBoundary_afterRoll_iff (h : e.CountsExactly) :
    (e.afterRoll c b).atBoundary = true ↔ isBoundary c e b := by
  have hsize : (e.afterRoll c b).chunkSize.toNat = e.chunkSize.toNat + 1 := by
    simp only [Engine.countByte_chunkSize, Engine.roll_chunkSize, Engine.zipStep_chunkSize,
      Engine.account_chunkSize, h.toNat_chunkSize_succ]
  have hzip : (e.afterRoll c b).seenZip = true ↔ matchAfter c e b = 4 := by
    rw [← Engine.seenZip_afterMatch_iff, Engine.seenZip, Engine.countByte_zipCnt, Engine.roll_zipCnt,
      Engine.seenZip]
  have hhash : (e.afterRoll c b).hash = (e.roll b).hash := by simp
  have hmask (h' : Word) : h' &&& e.optMask = e.optMask ↔
      h'.toNat &&& (e.optAvg - 1) = e.optAvg - 1 := by
    rw [← h.toNat_optMask, ← BitVec.toNat_inj, BitVec.toNat_and]
  rw [Engine.atBoundary, Engine.hashTest, Engine.capReached, Bool.or_eq_true, Bool.or_eq_true,
    Bool.and_eq_true, decide_eq_true_iff, decide_eq_true_iff, beq_iff_eq, hsize, hzip, hhash,
    Engine.afterRoll_optMin, Engine.afterRoll_optMax, Engine.afterRoll_optMask, hmask, or_assoc,
    isBoundary]

/-! ### The three ways a byte ends -/

/-- The accounted and counted byte of the spec is the machine's (42_chunker.md R161 to R163). -/
theorem Engine.countByte_afterMatch (c : Config) (e : Engine) (b : Byte) :
    (e.afterMatch c b).countByte = counted c e b := by
  have hsucc (w : Word) : BitVec.ofNat 64 (w.toNat + 1) = w + 1 := by
    rw [BitVec.ofNat_add, BitVec.ofNat_toNat, BitVec.setWidth_eq]
    rfl
  have hzip : Fin.ofNat 5 (matchAfter c e b) = zipAdvance c e.optZip e.zipCnt b := by
    rw [matchAfter, ← val_zipAdvance, Fin.ofNat_val_eq_self]
  rw [counted, hsucc, hsucc, hzip]
  rfl

/-- The rolled and counted byte of the spec is the machine's (42_chunker.md R164, R165). -/
theorem Engine.afterRoll_eq (c : Config) (e : Engine) (b : Byte) :
    e.afterRoll c b = countedAndRolled c e b := by
  rw [countedAndRolled, ← Engine.countByte_afterMatch]
  rfl

theorem Engine.byteStep_of_skips (ht : e.total.toNat < 2 ^ 64 - 1) (h : skips c e b) :
    e.byteStep c b = .done (counted c e b) := by
  rw [Engine.byteStep, if_neg ht.ne]
  simp only [Engine.fastSkips_afterMatch_iff.mpr h, if_true, Engine.countByte_afterMatch]

/-- A byte that is not skipped is rolled, and then cut or not (42_chunker.md R160). -/
theorem Engine.byteStep_of_not_skips (ht : e.total.toNat < 2 ^ 64 - 1) (h : ¬skips c e b) :
    e.byteStep c b = if (e.afterRoll c b).atBoundary then (e.afterRoll c b).cut c
      else .done (e.afterRoll c b) := by
  rw [Engine.byteStep, if_neg ht.ne]
  exact if_neg (mt Engine.fastSkips_afterMatch_iff.mp h)

theorem Engine.byteStep_of_not_boundary (h : e.CountsExactly) (hs : ¬skips c e b)
    (hb : ¬isBoundary c e b) : e.byteStep c b = .done (countedAndRolled c e b) := by
  rw [Engine.byteStep_of_not_skips h.total hs, if_neg (mt (Engine.atBoundary_afterRoll_iff h).mp hb),
    Engine.afterRoll_eq]

theorem Engine.byteStep_of_boundary (h : e.CountsExactly) (hs : ¬skips c e b)
    (hb : isBoundary c e b) : e.byteStep c b = (countedAndRolled c e b).cut c := by
  rw [Engine.byteStep_of_not_skips h.total hs, if_pos ((Engine.atBoundary_afterRoll_iff h).mpr hb),
    Engine.afterRoll_eq]

/-! ### UPDATE_BYTE -/

theorem Engine.cmdUpd_of_ready (hr : ready e) : e.cmdUpd c b = (e.byteStep c b).finish := by
  obtain ⟨hc, hf⟩ := hr
  exact Engine.command_run hf fun _ => hc

theorem exec_upd_of_done {e' : Engine} (he : s.engine? = some e) (hr : ready e)
    (h : e.byteStep Config.build b = .done e') :
    exec (.upd b) s = .next (s.setEngine { e' with err := .none }) := by
  rw [exec_eq_next he, Engine.run, Engine.cmdUpd_of_ready hr, h, Run.finish_done]

/-- Settles O32: the byte step of a skipped byte. -/
theorem skippedByteIsOnlyCounted : Obligations.SkippedByteIsOnlyCounted :=
  fun _ _ _ he hr ht hs => exec_upd_of_done he hr (Engine.byteStep_of_skips ht hs)

/-- Settles O33: the byte step of a rolled byte that is no boundary. -/
theorem rolledByteIsCounted : Obligations.RolledByteIsCounted :=
  fun _ _ _ he hr ht hle ha hs hb =>
    exec_upd_of_done he hr (Engine.byteStep_of_not_boundary ⟨ht, hle, ha⟩ hs hb)

/-- Settles O34: the byte step of a boundary byte, whose cut an unbounded queue takes. -/
theorem boundaryByteCutsChunk : Obligations.BoundaryByteCutsChunk := by
  intro s e b he hr ht hle ha hs hb
  have hstep : e.byteStep Config.build b =
      .done ((countedAndRolled Config.build e b).pushChunk Config.build) := by
    rw [Engine.byteStep_of_boundary ⟨ht, hle, ha⟩ hs hb, Engine.cut, Engine.queueFull_build]
    rfl
  rw [exec_upd_of_done he hr hstep]
  simp only [Engine.pushChunk, Engine.chunkLocalReset, Engine.currentChunk, countedAndRolled, counted]

/-- A byte that is not skipped leaves the cursor where `Roll` does, also when the chunk is cut
(42_chunker.md R164, R169). -/
theorem Engine.cursor_cmdUpd_of_not_skips (hr : ready e) (ht : e.total.toNat < 2 ^ 64 - 1)
    (h : ¬skips c e b) : (e.cmdUpd c b).cursor = (e.roll b).cursor := by
  rw [Engine.cmdUpd_of_ready hr, Engine.byteStep_of_not_skips ht h, Engine.cut]
  split_ifs <;> rfl

/-- Settles O31: both fast-skip tests are the comparison with `S0`. -/
theorem bytesBeforeFirstTestedAreSkipped : Obligations.BytesBeforeFirstTestedAreSkipped := by
  intro c e b s0 e2
  have hs0 : e.firstTested c = s0 := Engine.firstTested_eq c e
  have hskips (hm : matchAfter c e b ≠ 4) : skips c e b ↔ e.chunkSize.toNat + 1 < s0 := by
    rw [skips_iff, hs0, and_iff_left hm]
  refine ⟨hs0, fun hz => ?_, fun hr ht hm => ⟨fun hlt => ?_, fun hge => ?_⟩⟩
  · exact Engine.fastSkips_afterMatch_iff.trans (hskips (Engine.seenZip_afterMatch_eq_false_iff.mp hz))
  · rw [Engine.cmdUpd_of_ready hr, Engine.byteStep_of_skips ht ((hskips hm).mpr hlt), Run.finish_done]
  · exact Engine.cursor_cmdUpd_of_not_skips hr ht fun hs => Nat.not_lt.mpr hge ((hskips hm).mp hs)

end Sys2Proof.Machine
end

section
/-! PROOFS. Bytes in sequence (42_chunker.md R154, R156, R161, R173): the size of a chunk, what one byte
that is not fatal does to the stream, and UPDATE_PACKED as its bytes in order. -/

namespace Sys2Proof.Machine

open Sys2Proof.Spec

variable {c : Config} {e t : Engine} {b : Byte}

/-! ### The size of a chunk -/

/-- A configured engine that meets the invariant counts exactly while TOTAL has room
(10_state.md R44; 42_chunker.md R151). -/
theorem Engine.Live.countsExactly (h : e.Live c) (ht : e.total.toNat ≠ 2 ^ 64 - 1) :
    e.CountsExactly := by
  refine ⟨by have := e.total.isLt; omega, h.counters, fun h0 => ?_⟩
  obtain ⟨k, hk⟩ := h.options.average
  have hpos : e.optAvg ≠ 0 := hk ▸ (Nat.two_pow_pos k).ne'
  exact hpos (congrArg BitVec.toNat h0)

/-- A byte that enqueues a record is a boundary byte, and the record's size counts it
(42_chunker.md R166, R168). -/
theorem Engine.Inv.cut_of_q_cmdUpd (h : e.Inv c) (hr : ready e) {r : Chunk}
    (hq : (e.cmdUpd c b).q = e.q ++ [r]) :
    ¬skips c e b ∧ isBoundary c e b ∧ r.size.toNat = e.chunkSize.toNat + 1 := by
  rw [Engine.cmdUpd_of_ready hr] at hq
  rcases Engine.byteStep_cases c e b with ⟨-, heq⟩ | ⟨-, -, heq⟩ | ⟨-, -, -, heq⟩ |
    ⟨-, -, -, -, heq⟩ | ⟨ht, hskip, hb, -, heq⟩ <;> rw [heq] at hq
  · simp at hq
  · simp at hq
  · simp at hq
  · simp at hq
  · have hcounts := (h.configured hr.1).countsExactly ht
    have hr : (e.afterRoll c b).currentChunk c = r := by simpa using hq
    refine ⟨fun hs => ?_, (Engine.atBoundary_afterRoll_iff hcounts).mp hb, ?_⟩
    · exact absurd (Engine.fastSkips_afterMatch_iff.mpr hs) (by simp [hskip])
    · rw [← hr]
      exact hcounts.toNat_chunkSize_succ

/-- Settles O40: the byte is not skipped, so it is byte `S0` or a later one; the chunk before it was
below `max(S0, MAX)` by the invariant. -/
theorem chunkSizeBounds : Obligations.ChunkSizeBounds := by
  intro c e b r hinv hr hm hq s0 n
  obtain ⟨hskip, hb, hn⟩ := hinv.cut_of_q_cmdUpd hr hq
  have hn : n = e.chunkSize.toNat + 1 := hn
  have hlow : s0 ≤ n := by
    by_contra hlt
    exact hskip (skips_iff.mpr ⟨by omega, hm⟩)
  have hhigh : n ≤ max s0 e.optMax := hn ▸ (hinv.configured hr.1).unfinished hr.2
  have hend : e.optMin ≤ n ∨ e.optMax ≤ n := by
    rw [hn]
    rcases hb with hzip | ⟨hmin, -⟩ | hmax
    · exact absurd hzip hm
    · exact .inl hmin
    · exact .inr hmax
  exact ⟨hlow, hhigh, hend, by omega, by omega⟩

/-! ### One byte of the stream -/

/-- The engine with another outcome of the last command in `ERR`. -/
def Engine.withErr (r : ErrCode) (e : Engine) : Engine := { e with err := r }

/-- `t` differs from `e` only in the hash, the chunk, the stream, the queue and `ERR`. -/
def Engine.StreamFrame (e t : Engine) : Prop :=
  t = { e with
    hash := t.hash, win := t.win, cursor := t.cursor, chunkSize := t.chunkSize
    zipCnt := t.zipCnt, cacc := t.cacc, total := t.total, sacc := t.sacc, q := t.q
    err := t.err }

section StreamFrame

variable (h : e.StreamFrame t)
include h

theorem Engine.StreamFrame.trans {u : Engine} (h' : t.StreamFrame u) : e.StreamFrame u :=
  Eq.trans h' (congrArg (fun x : Engine => { x with
    hash := u.hash, win := u.win, cursor := u.cursor, chunkSize := u.chunkSize
    zipCnt := u.zipCnt, cacc := u.cacc, total := u.total, sacc := u.sacc, q := u.q
    err := u.err }) h)

theorem Engine.StreamFrame.configured : t.configured = e.configured := (congrArg Engine.configured h :)

theorem Engine.StreamFrame.fault : t.fault = e.fault := (congrArg Engine.fault h :)

end StreamFrame

@[simp] theorem Engine.withErr_fault (r : ErrCode) (e : Engine) : (e.withErr r).fault = e.fault := rfl

theorem Engine.streamFrame_withErr (r : ErrCode) (e : Engine) : e.StreamFrame (e.withErr r) := rfl

theorem Engine.streamFrame_countByte (e : Engine) : e.StreamFrame e.countByte := rfl

theorem Engine.streamFrame_afterMatch (c : Config) (e : Engine) (b : Byte) :
    e.StreamFrame (e.afterMatch c b) := rfl

theorem Engine.streamFrame_roll (e : Engine) (b : Byte) : e.StreamFrame (e.roll b) := rfl

theorem Engine.streamFrame_pushChunk (c : Config) (e : Engine) : e.StreamFrame (e.pushChunk c) := rfl

theorem Engine.streamFrame_afterRoll (c : Config) (e : Engine) (b : Byte) :
    e.StreamFrame (e.afterRoll c b) :=
  ((e.streamFrame_afterMatch c b).trans (Engine.streamFrame_roll _ b)).trans
    (Engine.streamFrame_countByte _)

/-- The record of a chunk with the given bytes (42_chunker.md R168). -/
def chunkRecord (c : Config) (p : List Byte) : Chunk :=
  ⟨BitVec.ofNat 64 p.length, (c.chunkDigest p).toList⟩

/-- What a byte that is not fatal does to the stream (42_chunker.md R161, R165, R168): it joins the
stream and the current chunk, and the chunk goes on or is cut after it. -/
structure Engine.FedByte (c : Config) (e : Engine) (b : Byte) (t : Engine) : Prop where
  frame : e.StreamFrame t
  sacc : t.sacc = e.sacc ++ [b]
  total : t.total.toNat = e.total.toNat + 1
  chunk : (t.q = e.q ∧ t.cacc = e.cacc ++ [b] ∧ t.chunkSize = e.chunkSize + 1) ∨
    (t.q = e.q ++ [⟨e.chunkSize + 1, (c.chunkDigest (e.cacc ++ [b])).toList⟩] ∧ t.cacc = [] ∧
      t.chunkSize = 0)

/-- Everything a byte step can do to the stream: it raises one of the two fatal faults, or feeds the
byte. -/
theorem Engine.byteStep_raises_or_feeds (c : Config) (e : Engine) (b : Byte) :
    (e.total.toNat = 2 ^ 64 - 1 ∧ e.byteStep c b = .raised .countOverflow e) ∨
    (e.queueFull c = true ∧ e.byteStep c b = .raised .queueOverflow (e.afterRoll c b)) ∨
    ∃ t, e.byteStep c b = .done t ∧ e.FedByte c b t := by
  have htotal (ht : e.total.toNat ≠ 2 ^ 64 - 1) : (e.total + 1).toNat = e.total.toNat + 1 :=
    BitVec.toNat_add_of_lt (show _ + 1 < _ by have := e.total.isLt; omega)
  rcases Engine.byteStep_cases c e b with h | ⟨ht, -, heq⟩ | ⟨ht, -, -, heq⟩ |
    ⟨-, -, -, hq, heq⟩ | ⟨ht, -, -, -, heq⟩
  · exact .inl h
  · exact .inr (.inr ⟨_, heq, (e.streamFrame_afterMatch c b).trans (Engine.streamFrame_countByte _),
      by simp, by simpa using htotal ht, .inl (by simp)⟩)
  · exact .inr (.inr ⟨_, heq, e.streamFrame_afterRoll c b, by simp, by simpa using htotal ht,
      .inl (by simp)⟩)
  · exact .inr (.inl ⟨by simpa [Engine.queueFull] using hq, heq⟩)
  · exact .inr (.inr ⟨_, heq, (e.streamFrame_afterRoll c b).trans (Engine.streamFrame_pushChunk c _),
      by simp, by simpa using htotal ht, .inr (by simp [Engine.currentChunk])⟩)

/-- Bytes raise fatal faults only (60_exceptions.md R221). -/
theorem Engine.fatal_of_feedBytes {bytes : List Byte} {r : ErrCode}
    (h : Engine.feedBytes c bytes e = .raised r t) : r.fatal = true := by
  induction bytes generalizing e with
  | nil => cases h
  | cons b rest ih =>
    rcases Engine.byteStep_raises_or_feeds c e b with ⟨-, heq⟩ | ⟨-, heq⟩ | ⟨e', heq, -⟩
    · cases (Engine.feedBytes_cons_raised heq).symm.trans h
      rfl
    · cases (Engine.feedBytes_cons_raised heq).symm.trans h
      rfl
    · exact ih (Engine.feedBytes_cons_done heq ▸ h)

/-! ### UPDATE_PACKED with room for its bytes -/

/-- With an unbounded queue and room in TOTAL the bytes are fed without a fault (42_chunker.md R156). -/
theorem Engine.feedBytes_of_room (hq : c.qCap = none) (bytes : List Byte)
    (ht : e.total.toNat + bytes.length ≤ 2 ^ 64 - 1) :
    ∃ t, Engine.feedBytes c bytes e = .done t ∧ t.total.toNat = e.total.toNat + bytes.length ∧
      t.sacc = e.sacc ++ bytes ∧ e.q <+: t.q ∧ e.StreamFrame t := by
  induction bytes generalizing e with
  | nil => exact ⟨e, rfl, rfl, (List.append_nil _).symm, List.prefix_rfl, rfl⟩
  | cons b rest ih =>
    rw [List.length_cons] at ht ⊢
    rcases Engine.byteStep_raises_or_feeds c e b with ⟨hmax, -⟩ | ⟨hfull, -⟩ | ⟨e', heq, hfed⟩
    · omega
    · cases (Engine.queueFull_of_unbounded hq e).symm.trans hfull
    · have htotal := hfed.total
      obtain ⟨t, hrun, ht', hsacc, hpre, hframe⟩ := ih (e := e') (by omega)
      have hq' : e.q <+: e'.q := by
        rcases hfed.chunk with ⟨hq', -, -⟩ | ⟨hq', -, -⟩ <;> rw [hq']
        exact List.prefix_append ..
      refine ⟨t, (Engine.feedBytes_cons_done heq).trans hrun, by omega, ?_, hq'.trans hpre,
        hfed.frame.trans hframe⟩
      rw [hsacc, hfed.sacc, List.append_assoc, List.singleton_append]

theorem Engine.cmdUpdp_of_ready (hr : ready e) (bytes : List Byte) :
    e.cmdUpdp c bytes = (Engine.feedBytes c bytes e).finish := by
  obtain ⟨hc, hf⟩ := hr
  exact Engine.command_run hf fun _ => hc

/-- Settles O38: the build's queue is unbounded, so the bytes run through. -/
theorem packedUpdateFeedsEveryByte : Obligations.PackedUpdateFeedsEveryByte := by
  intro s e bytes he hr _ ht
  obtain ⟨t, hrun, htotal, hsacc, hpre, hframe⟩ :=
    Engine.feedBytes_of_room (c := Config.build) rfl bytes ht
  refine ⟨t.withErr .none, ?_, rfl, hframe.fault.trans hr.2, htotal, hsacc, hpre,
    hframe.trans (t.streamFrame_withErr .none)⟩
  rw [exec_eq_next he, Engine.run, Engine.cmdUpdp_of_ready hr, hrun, Run.finish_done]
  rfl

/-! ### UPDATE_PACKED as its bytes in order -/

/-- No byte reads `ERR`. -/
theorem Engine.byteStep_withErr (r : ErrCode) (e : Engine) (b : Byte) :
    (e.withErr r).byteStep c b = (e.byteStep c b).map (Engine.withErr r) := by
  simp only [Engine.byteStep, Engine.rollAndTest, Engine.cut, apply_ite (Run.map (Engine.withErr r))]
  rfl

/-- Bytes end alike whatever `ERR` held before: the end of the command writes it. -/
theorem Engine.finish_feedBytes_withErr (r : ErrCode) (bytes : List Byte) (e : Engine) :
    (Engine.feedBytes c bytes (e.withErr r)).finish = (Engine.feedBytes c bytes e).finish := by
  induction bytes generalizing e with
  | nil => rfl
  | cons b rest ih =>
    have hstep := Engine.byteStep_withErr (c := c) r e b
    cases heq : e.byteStep c b with
    | done e' =>
      rw [heq] at hstep
      rw [Engine.feedBytes_cons_done hstep, Engine.feedBytes_cons_done heq, ih]
    | raised r' e' =>
      rw [heq] at hstep
      rw [Engine.feedBytes_cons_raised hstep, Engine.feedBytes_cons_raised heq]
      rfl

theorem Engine.cmdUpdp_singleton (c : Config) (e : Engine) (b : Byte) :
    e.cmdUpdp c [b] = e.cmdUpd c b := by
  simp only [Engine.cmdUpdp, Engine.cmdUpd, Engine.command, Engine.feedBytes_singleton]

/-- Every command passes the guards before its body (60_exceptions.md R230). -/
theorem Engine.run_eq_command (c : Config) (i : Instr) :
    ∃ n body, ∀ e : Engine, e.run c i = e.command n body := by
  cases i <;> exact ⟨_, _, fun _ => rfl⟩

/-- A command on a faulted engine leaves it faulted (60_exceptions.md R223). -/
theorem Engine.fault_eq_false_of_run {i : Instr} (h : (e.run c i).fault = false) :
    e.fault = false := by
  obtain ⟨n, body, hrun⟩ := Engine.run_eq_command c i
  cases hf : e.fault with
  | false => rfl
  | true => simp [hrun, Engine.command_halted hf, hf] at h

theorem Engine.fault_eq_false_of_runAll {is : List Instr} (h : (e.runAll c is).fault = false) :
    e.fault = false := by
  induction is generalizing e with
  | nil => exact h
  | cons i rest ih => exact Engine.fault_eq_false_of_run (ih h)

theorem Engine.cmdUpd_of_not_configured (hf : e.fault = false) (hc : e.configured = false) :
    e.cmdUpd c b = e.withErr .notConfigured := by
  rw [Engine.cmdUpd, Engine.command_notConfigured hf rfl hc, Engine.raise_of_not_fatal rfl]
  rfl

theorem Engine.cmdUpdp_of_not_configured (hf : e.fault = false) (hc : e.configured = false)
    (bytes : List Byte) : e.cmdUpdp c bytes = e.withErr .notConfigured := by
  rw [Engine.cmdUpdp, Engine.command_notConfigured hf rfl hc, Engine.raise_of_not_fatal rfl]
  rfl

/-- UPDATE_BYTE on a ready engine raises a fatal fault or feeds its byte (42_chunker.md R155). -/
theorem Engine.cmdUpd_cases (hr : ready e) (c : Config) (b : Byte) :
    (∃ r t, r.fatal = true ∧ e.byteStep c b = .raised r t ∧ e.cmdUpd c b = t.raise r) ∨
    ∃ t, e.byteStep c b = .done t ∧ ready t ∧ e.cmdUpd c b = t.withErr .none := by
  rw [Engine.cmdUpd_of_ready hr]
  rcases Engine.byteStep_raises_or_feeds c e b with ⟨-, heq⟩ | ⟨-, heq⟩ | ⟨t, heq, hfed⟩ <;>
    rw [heq]
  · exact .inl ⟨_, _, rfl, rfl, rfl⟩
  · exact .inl ⟨_, _, rfl, rfl, rfl⟩
  · exact .inr ⟨t, rfl, ⟨hfed.frame.configured.trans hr.1, hfed.frame.fault.trans hr.2⟩, rfl⟩

/-- A byte that is not fatal may be split off in front (42_chunker.md R156). -/
theorem Engine.cmdUpdp_cons (h : (e.cmdUpd c b).fault = false) (rest : List Byte) :
    e.cmdUpdp c (b :: rest) = (e.cmdUpd c b).cmdUpdp c rest := by
  have hf : e.fault = false := Engine.fault_eq_false_of_run (i := .upd b) h
  cases hc : e.configured with
  | false =>
    rw [Engine.cmdUpdp_of_not_configured hf hc, Engine.cmdUpd_of_not_configured hf hc,
      Engine.cmdUpdp_of_not_configured (e := e.withErr .notConfigured) hf hc]
    rfl
  | true =>
    rcases Engine.cmdUpd_cases ⟨hc, hf⟩ c b with ⟨r, t, hfatal, -, hcmd⟩ | ⟨t, heq, hr, hcmd⟩
    · simp [hcmd, hfatal] at h
    · rw [hcmd, Engine.cmdUpdp_of_ready ⟨hc, hf⟩, Engine.cmdUpdp_of_ready (e := t.withErr .none) hr,
        Engine.finish_feedBytes_withErr, Engine.feedBytes_cons_done heq]

/-- A fatal byte ends the command (42_chunker.md R156; 60_exceptions.md R228). -/
theorem Engine.cmdUpdp_cons_of_fault (hf : e.fault = false) (h : (e.cmdUpd c b).fault = true)
    (rest : List Byte) : e.cmdUpdp c (b :: rest) = e.cmdUpd c b := by
  cases hc : e.configured with
  | false => simp [Engine.cmdUpd_of_not_configured hf hc, hf] at h
  | true =>
    rcases Engine.cmdUpd_cases ⟨hc, hf⟩ c b with ⟨r, t, -, heq, hcmd⟩ | ⟨t, -, hr, hcmd⟩
    · rw [hcmd, Engine.cmdUpdp_of_ready ⟨hc, hf⟩, Engine.feedBytes_cons_raised heq, Run.finish_raised]
    · simp [hcmd, hr.2] at h

/-- Settles O37: the guards come before the first byte, and a byte ends the command or is split off. -/
theorem packedUpdateIsByteUpdatesInOrder : Obligations.PackedUpdateIsByteUpdatesInOrder := by
  intro c e b rest
  refine ⟨Engine.cmdUpdp_singleton c e b, fun h _ => Engine.cmdUpdp_cons h rest,
    fun hf h => Engine.cmdUpdp_cons_of_fault hf h rest, fun hf => ?_,
    fun hf hc => Engine.cmdUpdp_of_not_configured hf hc _⟩
  rw [Engine.cmdUpdp, Engine.command_halted hf, Engine.raise_of_not_fatal rfl]

/-- UPDATE_PACKED of a nonempty sequence is UPDATE_BYTE of each byte, unless one is fatal
(42_chunker.md R156). -/
theorem Engine.cmdUpdp_eq_runAll (rest : List Byte)
    (h : (e.runAll c ((b :: rest).map .upd)).fault = false) :
    e.cmdUpdp c (b :: rest) = e.runAll c ((b :: rest).map .upd) := by
  induction rest generalizing e b with
  | nil => exact Engine.cmdUpdp_singleton c e b
  | cons b' rest ih =>
    have hfirst : (e.cmdUpd c b).fault = false :=
      Engine.fault_eq_false_of_runAll (e := e.cmdUpd c b) (is := (b' :: rest).map .upd) h
    rw [Engine.cmdUpdp_cons hfirst]
    exact ih h

theorem Engine.runAll_append (c : Config) (e : Engine) (is js : List Instr) :
    e.runAll c (is ++ js) = (e.runAll c is).runAll c js := List.foldl_append ..

/-- Settles O39: by induction on the slices, each of which is its bytes one by one. -/
theorem sliceBoundariesHaveNoEffect : Obligations.SliceBoundariesHaveNoEffect := by
  intro c e slices hne h
  induction slices generalizing e with
  | nil => rfl
  | cons l slices ih =>
    rw [List.flatten_cons, List.map_append, Engine.runAll_append] at h ⊢
    obtain ⟨b, rest, rfl⟩ := List.exists_cons_of_ne_nil (hne l List.mem_cons_self)
    have hslice := Engine.cmdUpdp_eq_runAll rest (Engine.fault_eq_false_of_runAll h)
    rw [← hslice] at h ⊢
    exact ih _ (fun l hl => hne l (List.mem_cons_of_mem _ hl)) h

end Sys2Proof.Machine
end

section
/-! PROOFS. The records of a stream (42_chunker.md R177, R178): they and the current chunk partition the
bytes fed, whatever commands but CONFIGURE, FINALIZE and POP feed them. -/

namespace Sys2Proof.Machine

open Sys2Proof.Spec

variable {c : Config} {e t : Engine} {b : Byte}

/-- After the bytes `bytes` of a stream that began with the queue `q`: the records enqueued since and the
current chunk are those of consecutive parts of the bytes (42_chunker.md R177). -/
structure Engine.Partitions (c : Config) (q : List Chunk) (bytes : List Byte) (e : Engine) : Prop where
  configured : e.configured = true
  parts : ∃ parts : List (List Byte), parts.flatten ++ e.cacc = bytes ∧ (∀ p ∈ parts, p ≠ []) ∧
    e.q = q ++ parts.map (chunkRecord c)
  chunkSize : e.chunkSize = BitVec.ofNat 64 e.cacc.length
  sacc : e.sacc = bytes
  total : e.total.toNat = bytes.length

/-- A chunk with bytes in it that is put at the end of the queue is one more part. -/
theorem records_snoc {q q' : List Chunk} {bytes p : List Byte} {parts : List (List Byte)} (hp : p ≠ [])
    (hflat : parts.flatten ++ p = bytes) (hne : ∀ p ∈ parts, p ≠ [])
    (hq : q' = q ++ parts.map (chunkRecord c) ++ [chunkRecord c p]) :
    ∃ parts : List (List Byte), parts.flatten = bytes ∧ (∀ p ∈ parts, p ≠ []) ∧
      q' = q ++ parts.map (chunkRecord c) := by
  refine ⟨parts ++ [p], by simpa using hflat, fun p' hp' => ?_, by simpa using hq⟩
  rcases List.mem_append.mp hp' with hp' | hp'
  · exact hne p' hp'
  · exact List.mem_singleton.mp hp' ▸ hp

section Partitions

variable {q : List Chunk} {bytes : List Byte} (h : e.Partitions c q bytes)
include h

theorem Engine.Partitions.withErr (r : ErrCode) : (e.withErr r).Partitions c q bytes := { h with }

/-- The byte counter of the current chunk counts the next byte too (42_chunker.md R165). -/
theorem Engine.Partitions.chunkSize_succ (b : Byte) :
    e.chunkSize + 1 = BitVec.ofNat 64 (e.cacc ++ [b]).length := by
  rw [h.chunkSize, List.length_append, BitVec.ofNat_add]
  rfl

/-- A byte that is not fatal leaves parts that end with it (42_chunker.md R165, R168). -/
theorem Engine.Partitions.parts_fedByte (hfed : e.FedByte c b t) :
    ∃ parts : List (List Byte), parts.flatten ++ t.cacc = bytes ++ [b] ∧ (∀ p ∈ parts, p ≠ []) ∧
      t.q = q ++ parts.map (chunkRecord c) := by
  obtain ⟨parts, hflat, hne, hq⟩ := h.parts
  have hflat' : parts.flatten ++ (e.cacc ++ [b]) = bytes ++ [b] := by rw [← List.append_assoc, hflat]
  rcases hfed.chunk with ⟨htq, htc, -⟩ | ⟨htq, htc, -⟩ <;> rw [htq, htc, hq]
  · exact ⟨parts, hflat', hne, rfl⟩
  · rw [h.chunkSize_succ b]
    simp only [List.append_nil]
    exact records_snoc (by simp) hflat' hne rfl

theorem Engine.Partitions.fedByte (hfed : e.FedByte c b t) : t.Partitions c q (bytes ++ [b]) where
  configured := hfed.frame.configured.trans h.configured
  parts := h.parts_fedByte hfed
  chunkSize := by
    rcases hfed.chunk with ⟨-, htc, hts⟩ | ⟨-, htc, hts⟩ <;> rw [htc, hts]
    · exact h.chunkSize_succ b
    · rfl
  sacc := by rw [hfed.sacc, h.sacc]
  total := by rw [hfed.total, h.total, List.length_append, List.length_singleton]

/-- FINALIZE makes what is left of the chunk the last part (43_output.md R190). -/
theorem Engine.Partitions.closeStream : ∃ parts : List (List Byte), parts.flatten = bytes ∧
    (∀ p ∈ parts, p ≠ []) ∧ (e.closeStream c).q = q ++ parts.map (chunkRecord c) := by
  obtain ⟨parts, hflat, hne, hq⟩ := h.parts
  have hlen : e.cacc.length < 2 ^ 64 := by
    have hle := congrArg List.length hflat
    have hlt := e.total.isLt
    rw [List.length_append] at hle
    rw [h.total] at hlt
    omega
  have hsize : e.chunkSize.toNat = e.cacc.length := by
    rw [h.chunkSize, BitVec.toNat_ofNat, Nat.mod_eq_of_lt hlen]
  rw [Engine.closeStream_eq]
  by_cases hc : e.cacc = []
  · have h0 : e.chunkSize = 0 := by rw [h.chunkSize, hc]; rfl
    exact ⟨parts, by simpa [hc] using hflat, hne, (if_neg (not_not.mpr h0)).trans hq⟩
  · have h0 : e.chunkSize ≠ 0 := fun h0 => by
      rw [h0] at hsize
      exact hc (List.length_eq_zero_iff.mp hsize.symm)
    refine records_snoc hc hflat hne ((if_pos h0).trans ?_)
    rw [hq, Engine.currentChunk, h.chunkSize]
    rfl

end Partitions

theorem Engine.Partitions.feedBytes {q : List Chunk} {bytes fed : List Byte}
    (h : e.Partitions c q bytes) (hfed : Engine.feedBytes c fed e = .done t) :
    t.Partitions c q (bytes ++ fed) := by
  induction fed generalizing e bytes with
  | nil =>
    obtain rfl := Run.done.inj hfed
    rwa [List.append_nil]
  | cons b rest ih =>
    rcases Engine.byteStep_raises_or_feeds c e b with ⟨-, heq⟩ | ⟨-, heq⟩ | ⟨e', heq, hbyte⟩
    · cases (Engine.feedBytes_cons_raised heq).symm.trans hfed
    · cases (Engine.feedBytes_cons_raised heq).symm.trans hfed
    · rw [List.append_cons]
      exact ih (h.fedByte hbyte) ((Engine.feedBytes_cons_done heq).symm.trans hfed)

/-- A command on a configured engine that leaves no fault ran its body (60_exceptions.md R221, R230). -/
theorem Engine.command_of_not_fault {n : Bool} {body : Engine → Run} (hc : e.configured = true)
    (h : (e.command n body).fault = false) : e.command n body = (body e).finish := by
  rcases Engine.command_cases n body e with ⟨hf, heq⟩ | ⟨-, -, hc', -⟩ | ⟨-, -, heq⟩
  · simp [heq, hf] at h
  · exact nomatch hc.symm.trans hc'
  · exact heq

section Commands

variable {q : List Chunk} {bytes : List Byte} (h : e.Partitions c q bytes)
include h

theorem Engine.Partitions.cmdUpdp {fed : List Byte} (hf : (e.cmdUpdp c fed).fault = false) :
    (e.cmdUpdp c fed).Partitions c q (bytes ++ fed) := by
  have hrun : e.cmdUpdp c fed = _ := Engine.command_of_not_fault h.configured hf
  rw [hrun] at hf ⊢
  cases heq : Engine.feedBytes c fed e with
  | done t => exact (h.feedBytes heq).withErr .none
  | raised r t => simp [heq, Engine.fatal_of_feedBytes heq] at hf

/-- A command whose body does no more than roll or clear the hash keeps the partition. -/
theorem Engine.Partitions.command_done {n : Bool} {f : Engine → Engine}
    (hf : (e.command n fun e => .done (f e)).fault = false) (hfe : (f e).Partitions c q bytes) :
    (e.command n fun e => .done (f e)).Partitions c q bytes := by
  rw [Engine.command_of_not_fault h.configured hf]
  exact hfe.withErr .none

/-- Every command that leaves no fault, but for CONFIGURE, FINALIZE and POP, keeps the partition. -/
theorem Engine.Partitions.run {i : Instr} (hi : i ≠ .cfg ∧ i ≠ .fin ∧ i ≠ .pop)
    (hf : (e.run c i).fault = false) : (e.run c i).Partitions c q (bytes ++ fedBytes i) := by
  cases i with
  | nop opa data => exact (List.append_nil bytes).symm ▸ h.command_done (f := id) hf h
  | cfg => exact absurd rfl hi.1
  | upd b =>
    have hone : e.run c (.upd b) = e.cmdUpdp c [b] := (Engine.cmdUpdp_singleton c e b).symm
    rw [hone] at hf ⊢
    exact h.cmdUpdp hf
  | updp fed => exact h.cmdUpdp hf
  | fin => exact absurd rfl hi.2.1
  | pop => exact absurd rfl hi.2.2
  | roll b =>
    exact (List.append_nil bytes).symm ▸ h.command_done (f := (Engine.roll · b)) hf { h with }
  | hrst => exact (List.append_nil bytes).symm ▸ h.command_done (f := Engine.hashReset) hf { h with }

end Commands

theorem Engine.Partitions.runAll {q : List Chunk} {bytes : List Byte} (h : e.Partitions c q bytes)
    {is : List Instr} (his : ∀ i ∈ is, i ≠ .cfg ∧ i ≠ .fin ∧ i ≠ .pop)
    (hf : (e.runAll c is).fault = false) :
    (e.runAll c is).Partitions c q (bytes ++ is.flatMap fedBytes) := by
  induction is generalizing e bytes with
  | nil => rwa [List.flatMap_nil, List.append_nil]
  | cons i rest ih =>
    have hfirst : (e.run c i).fault = false :=
      Engine.fault_eq_false_of_runAll (e := e.run c i) (is := rest) hf
    rw [List.flatMap_cons, ← List.append_assoc]
    exact ih (h.run (his i List.mem_cons_self) hfirst)
      (fun i hi => his i (List.mem_cons_of_mem _ hi)) hf

/-- FINALIZE that leaves no fault closed the stream (43_output.md R190). -/
theorem Engine.cmdFin_of_not_fault (hc : e.configured = true) (h : (e.cmdFin c).fault = false) :
    e.cmdFin c = (e.closeStream c).withErr .none := by
  have hrun : e.cmdFin c = _ := Engine.command_of_not_fault hc h
  rw [hrun] at h ⊢
  split_ifs at h ⊢
  · simp [ErrCode.fatal] at h
  · rfl

/-- Settles O41: the start of a stream is the empty partition, every command keeps the partition, and
FINALIZE completes it. -/
theorem recordsPartitionTheStream : Obligations.RecordsPartitionTheStream := by
  intro c e is hc htotal hsize hcacc hsacc his bytes t hf
  have hstart : e.Partitions c e.q [] :=
    { configured := hc
      parts := ⟨[], hcacc, nofun, (List.append_nil _).symm⟩
      chunkSize := by rw [hsize, hcacc]; rfl
      sacc := hsacc
      total := by rw [htotal]; rfl }
  have ht : t = (e.runAll c is).cmdFin c := Engine.runAll_append c e is [.fin]
  rw [ht] at hf ⊢
  have hend : (e.runAll c is).Partitions c e.q bytes :=
    hstart.runAll his (Engine.fault_eq_false_of_run (i := .fin) hf)
  obtain ⟨parts, hflat, hne, hq⟩ := hend.closeStream
  rw [Engine.cmdFin_of_not_fault hend.configured hf]
  have hlen : bytes.length < 2 ^ 64 := hend.total ▸ (e.runAll c is).total.isLt
  refine ⟨parts, hflat, hne, hq, fun p hp => ?_, ?_, ?_, fun k => ?_⟩
  · exact ((List.sublist_flatten_of_mem hp).length_le.trans_eq (congrArg _ hflat)).trans_lt hlen
  all_goals rw [Engine.closeStream_eq]
  · exact hend.total
  · rfl
  · rw [← hend.sacc]
    exact Memory.read_ofBytes _ _

end Sys2Proof.Machine
end

section
/-! PROOFS. Finalize and the output queue (43_output.md R190 to R198): FINALIZE, POP, the loop of `drain`,
and POP beside UPDATE_BYTE. -/

namespace Sys2Proof.Machine

open Sys2Proof.Spec

variable {c : Config} {s : State} {e : Engine} {r : Chunk} {rest : List Chunk} {b : Byte}

/-! ### FINALIZE -/

/-- The build's queue always has room for the last chunk (43_output.md R190). -/
theorem exec_fin (he : s.engine? = some e) (hr : ready e) :
    exec .fin s = .next (s.setEngine ((e.closeStream Config.build).withErr .none)) := by
  obtain ⟨hc, hf⟩ := hr
  rw [exec_eq_next he, Engine.run, Engine.cmdFin, Engine.command_run hf fun _ => hc,
    Engine.queueFull_build, if_neg (by simp)]
  rfl

/-- The partial chunk becomes the last record if it has bytes (43_output.md R190). -/
theorem Engine.closeStream_q (c : Config) (e : Engine) : (e.closeStream c).q =
    e.q ++ if e.chunkSize.toNat = 0 then [] else [e.currentChunk c] := by
  have hzero : e.chunkSize.toNat = 0 ↔ e.chunkSize = 0 := BitVec.toNat_inj (y := 0)
  rw [Engine.closeStream_eq]
  by_cases h : e.chunkSize = 0
  · rw [if_neg (not_not.mpr h), if_pos (hzero.mpr h), List.append_nil]
  · rw [if_pos h, if_neg (mt hzero.mp h)]

/-- FINALIZE writes the queue, the Stats, the stream and the chunk-local state only
(43_output.md R190, R191). -/
theorem Engine.closeStream_frame (c : Config) (e : Engine) : e.closeStream c =
    { e with
      q := (e.closeStream c).q
      total := 0, sacc := [], hash := 0, chunkSize := 0, zipCnt := 0, cacc := [], win := []
      statsSize := e.total, statsDigest := (e.closeStream c).statsDigest, statsValid := true } := by
  rw [Engine.closeStream_eq]

/-- STATS_DIGEST reads as the digest of the stream, and 0 above it (10_state.md R39). -/
theorem Engine.read_closeStream_statsDigest (c : Config) (e : Engine) (k : Nat) :
    Memory.read (e.closeStream c).statsDigest k =
      if h : k < c.dlS then (c.streamDigest e.sacc)[k] else 0 := by
  rw [Engine.closeStream_eq, Memory.read_ofBytes]
  split_ifs with hk
  · simp [hk]
  · simp [Nat.le_of_not_lt hk]

/-- Settles O42: FINALIZE runs `closeStream`, whose queue, memories and frame are known. -/
theorem finalizeClosesStream : Obligations.FinalizeClosesStream := by
  intro s e he hr
  refine ⟨_, exec_fin he hr, ?_, fun j => ?_, e.read_closeStream_statsDigest _⟩
  · exact congrArg (Engine.withErr .none)
      (e.closeStream_q Config.build ▸ e.closeStream_frame Config.build)
  · rw [Engine.closeStream_frame]
    rfl

/-! ### POP -/

/-- The engine with the queue empty and OUT cleared (43_output.md R195, R198). -/
def Engine.drained (e : Engine) : Engine :=
  { e with q := [], outValid := false, outSize := 0, outDigest := [] }

/-- The engine with its oldest record dropped from the queue and the record `r` in OUT
(43_output.md R195). -/
def Engine.popRecord (c : Config) (r : Chunk) (e : Engine) : Engine :=
  { e with
    q := e.q.tail, outValid := true, outSize := r.size
    outDigest := Memory.ofBytes (r.digest.take c.dlC) }

theorem Engine.dequeue_of_q_nil (h : e.q = []) : e.dequeue c = e.drained := by
  unfold Engine.dequeue Engine.drained
  rw [h]

theorem Engine.dequeue_of_q_cons (h : e.q = r :: rest) : e.dequeue c = e.popRecord c r := by
  unfold Engine.dequeue Engine.popRecord
  rw [h]
  rfl

/-- POP writes the queue and OUT only. -/
theorem Engine.dequeue_frame (c : Config) (e : Engine) :
    e.dequeue c = { e with
      q := e.q.tail, outValid := (e.dequeue c).outValid, outSize := (e.dequeue c).outSize
      outDigest := (e.dequeue c).outDigest } := by
  cases h : e.q with
  | nil =>
    rw [Engine.dequeue_of_q_nil h]
    rfl
  | cons r rest =>
    rw [Engine.dequeue_of_q_cons h, ← h]
    rfl

theorem Engine.cmdPop_of_ready (hr : ready e) : e.cmdPop c = (e.dequeue c).withErr .none := by
  obtain ⟨hc, hf⟩ := hr
  exact Engine.command_run hf fun _ => hc

/-- Settles O43: the two guards of POP and its body, for either kind of queue. -/
theorem popMovesOldestRecord : Obligations.PopMovesOldestRecord := by
  intro s e he
  rw [exec_eq_next he, Engine.run]
  refine ⟨onlyWord_of_decode he (by decide) (by decide), fun hf => ?_, fun hf hc => ?_, fun hr => ?_⟩
  · rw [Engine.cmdPop, Engine.command_halted hf, Engine.raise_of_not_fatal rfl]
  · rw [Engine.cmdPop, Engine.command_notConfigured hf rfl hc, Engine.raise_of_not_fatal rfl]
  · rw [Engine.cmdPop_of_ready hr]
    refine ⟨_, rfl, congrArg (Engine.withErr .none) (e.dequeue_frame _), fun hq => ?_,
      fun r rest hq => ?_⟩
    · rw [Engine.dequeue_of_q_nil hq]
      exact ⟨rfl, rfl, fun _ => rfl⟩
    · rw [Engine.dequeue_of_q_cons hq]
      refine ⟨rfl, rfl, fun k => (Memory.read_ofBytes _ k).trans ?_⟩
      rw [List.getElem?_take]
      split_ifs <;> rfl

/-! ### The loop of `drain` -/

/-- The bit of STATUS that `drain` tests is `OUT_VALID` (10_state.md R40). -/
theorem Engine.status_getLsbD_one (e : Engine) : e.status.getLsbD 1 = e.outValid := by
  simp [Engine.status, bitAt]

/-- A round on an empty queue is the last. -/
theorem Engine.drain_of_q_nil (hr : ready e) (h : e.q = []) (n : Nat) :
    e.drain c (n + 1) = ([], e.drained.withErr .none) := by
  rw [Engine.drain, Engine.cmdPop_of_ready hr, Engine.dequeue_of_q_nil h]
  simp only [Engine.status_getLsbD_one]
  rfl

/-- A round on a nonempty queue consumes the oldest record and goes on. -/
theorem Engine.drain_of_q_cons (hr : ready e) (h : e.q = r :: rest) (n : Nat) :
    e.drain c (n + 1) =
      (((e.popRecord c r).withErr .none).drain c n).map
        ((r.size, Memory.ofBytes (r.digest.take c.dlC)) :: ·) id := by
  rw [Engine.drain, Engine.cmdPop_of_ready hr, Engine.dequeue_of_q_cons h]
  simp only [Engine.status_getLsbD_one]
  rfl

/-- One round more than there are records empties the queue; each round leaves one record fewer. -/
theorem Engine.drain_of_q {q : List Chunk} (hr : ready e) (hq : e.q = q)
    (hlen : ∀ r ∈ q, r.digest.length = c.dlC) : e.drain c (q.length + 1) =
      (q.map fun r => (r.size, Memory.ofBytes r.digest), e.drained.withErr .none) := by
  induction q generalizing e with
  | nil => exact Engine.drain_of_q_nil hr hq 0
  | cons r rest ih =>
    obtain ⟨hfirst, hrest⟩ := List.forall_mem_cons.mp hlen
    have htail : ((e.popRecord c r).withErr .none).q = rest := congrArg List.tail hq
    have hround := ih (e := (e.popRecord c r).withErr .none) hr htail hrest
    rw [List.length_cons, Engine.drain_of_q_cons hr hq, hround, List.take_of_length_le hfirst.le]
    rfl

/-- Settles O44: the loop's result is that of an induction on the queue. -/
theorem drainReturnsRecordsInOrder : Obligations.DrainReturnsRecordsInOrder := by
  intro c e hr hlen result
  have hresult : result = _ := Engine.drain_of_q hr rfl hlen
  rw [hresult]
  exact ⟨rfl, rfl⟩

/-! ### POP beside UPDATE_BYTE -/

/-- An engine that is not ready refuses every command that needs a configuration
(60_exceptions.md R223, R224). -/
theorem Engine.command_of_not_ready (h : ¬ready e) (body : Engine → Run) :
    e.command true body = e.withErr (if e.fault then .halted else .notConfigured) := by
  rcases Engine.command_cases true body e with ⟨hf, heq⟩ | ⟨hf, -, -, heq⟩ | ⟨hf, hc, -⟩
  · rw [heq, Engine.raise_of_not_fatal rfl, if_pos hf, Engine.withErr]
  · rw [heq, Engine.raise_of_not_fatal rfl, if_neg (ne_true_of_eq_false hf), Engine.withErr]
  · exact absurd ⟨hc rfl, hf⟩ h

/-- Enqueuing behind a waiting record and taking that record may be interchanged. -/
theorem Engine.pushChunk_popRecord (h : e.q ≠ []) :
    (e.popRecord c r).pushChunk c = (e.pushChunk c).popRecord c r := by
  have htail : (e.q ++ [e.currentChunk c]).tail = e.q.tail ++ [e.currentChunk c] :=
    List.tail_append_of_ne_nil h
  simp only [Engine.popRecord, Engine.pushChunk_q, htail]
  rfl

/-- With an unbounded queue no byte reads the queue or OUT (42_chunker.md R179). -/
theorem Engine.byteStep_popRecord (hcap : c.qCap = none) (h : e.q ≠ []) :
    (e.popRecord c r).byteStep c b = (e.byteStep c b).map (Engine.popRecord c r) := by
  have hpush : Run.done (((e.popRecord c r).afterRoll c b).pushChunk c) =
      (Run.done ((e.afterRoll c b).pushChunk c)).map (Engine.popRecord c r) :=
    congrArg Run.done (Engine.pushChunk_popRecord (e := e.afterRoll c b) h)
  simp only [Engine.byteStep, Engine.rollAndTest, Engine.cut, Engine.queueFull_of_unbounded hcap,
    Bool.false_eq_true, if_false, hpush, apply_ite (Run.map (Engine.popRecord c r))]
  rfl

/-- With room in TOTAL and an unbounded queue a byte is fed (42_chunker.md R160, R168). -/
theorem Engine.byteStep_of_room (hcap : c.qCap = none) (ht : e.total.toNat < 2 ^ 64 - 1) :
    ∃ t, e.byteStep c b = .done t ∧ e.FedByte c b t := by
  rcases Engine.byteStep_raises_or_feeds c e b with ⟨hmax, -⟩ | ⟨hfull, -⟩ | hfed
  · exact absurd hmax ht.ne
  · cases (Engine.queueFull_of_unbounded hcap e).symm.trans hfull
  · exact hfed

/-- A fed byte leaves the oldest waiting record where it is (42_chunker.md R168). -/
theorem Engine.FedByte.q_eq_cons {t : Engine} (hfed : e.FedByte c b t) (hq : e.q = r :: rest) :
    ∃ rest', t.q = r :: rest' := by
  rcases hfed.chunk with ⟨htq, -, -⟩ | ⟨htq, -, -⟩ <;> rw [htq, hq]
  · exact ⟨rest, rfl⟩
  · exact ⟨_, rfl⟩

/-- Settles O45: an engine that is not ready refuses both commands; on a ready one the byte is fed in
either order, and the record that waits first is the same. -/
theorem popCommutesWithUpdate : Obligations.PopCommutesWithUpdate := by
  intro c e b hcap hne ht
  by_cases hr : ready e
  · obtain ⟨r, rest, hq⟩ := List.exists_cons_of_ne_nil hne
    obtain ⟨t, hstep, hfed⟩ := Engine.byteStep_of_room (b := b) hcap ht
    have htr : ready (t.withErr .none) :=
      ⟨hfed.frame.configured.trans hr.1, hfed.frame.fault.trans hr.2⟩
    obtain ⟨rest', hq'⟩ := hfed.q_eq_cons hq
    have hpop : (e.cmdPop c).cmdUpd c b = (t.popRecord c r).withErr .none := by
      rw [Engine.cmdPop_of_ready hr, Engine.dequeue_of_q_cons hq,
        Engine.cmdUpd_of_ready (e := (e.popRecord c r).withErr .none) hr, Engine.byteStep_withErr,
        Engine.byteStep_popRecord hcap hne, hstep]
      rfl
    have hupd : e.cmdUpd c b = t.withErr .none := by
      rw [Engine.cmdUpd_of_ready hr, hstep, Run.finish_done, Engine.withErr]
    rw [hpop, hupd, Engine.cmdPop_of_ready htr,
      Engine.dequeue_of_q_cons (e := t.withErr .none) (r := r) (rest := rest') hq']
    rfl
  · have hr' (r : ErrCode) : ¬ready (e.withErr r) := hr
    simp only [Engine.cmdPop, Engine.cmdUpd, Engine.command_of_not_ready hr,
      Engine.command_of_not_ready (hr' _)]

end Sys2Proof.Machine
end

section
/-! PROOFS. The outcomes of a word written to CMD (60_exceptions.md R221 to R230): how every word can end,
the conditions that are tested first, and the two faults that stop the engine. -/

namespace Sys2Proof.Machine

open Sys2Proof.Spec

variable {c : Config} {e t : Engine} {b : Byte} {w : Word}

@[simp] theorem Engine.withErr_err (r : ErrCode) (e : Engine) : (e.withErr r).err = r := rfl

/-- A fatal outcome writes `ERR` and `FAULT` (60_exceptions.md R221). -/
theorem Engine.raise_of_fatal {r : ErrCode} (h : r.fatal = true) (e : Engine) :
    e.raise r = { e with err := r, fault := true } := by
  simp [Engine.raise, h]

/-! ### The word as its command -/

theorem Engine.runWord_of_decode_some {i : Instr} (h : decode w = some i) :
    e.runWord c w = e.run c i := by
  rw [Engine.runWord, h]

theorem Engine.runWord_of_decode_none (h : decode w = none) : e.runWord c w = e.illegalWord := by
  rw [Engine.runWord, h]

/-! ### The guards -/

theorem Engine.run_of_fault (hf : e.fault = true) (i : Instr) :
    e.run c i = e.withErr .halted := by
  obtain ⟨n, body, hrun⟩ := Engine.run_eq_command c i
  rw [hrun, Engine.command_halted hf, Engine.raise_of_not_fatal rfl, Engine.withErr]

/-- On a faulted engine every word is `HALTED` (60_exceptions.md R223). -/
theorem Engine.runWord_of_fault (hf : e.fault = true) (w : Word) :
    e.runWord c w = e.withErr .halted := by
  cases hd : decode w with
  | some i => rw [Engine.runWord_of_decode_some hd, Engine.run_of_fault hf]
  | none =>
    rw [Engine.runWord_of_decode_none hd, Engine.illegalWord, if_pos hf, Engine.raise_of_not_fatal rfl,
      Engine.withErr]

/-- A word that is no command is `ILLEGAL_CMD` unless the engine is faulted (60_exceptions.md R225). -/
theorem Engine.runWord_of_illegal (hf : e.fault = false) (hd : decode w = none) :
    e.runWord c w = e.withErr .illegalCmd := by
  rw [Engine.runWord_of_decode_none hd, Engine.illegalWord, hf, if_neg Bool.false_ne_true,
    Engine.raise_of_not_fatal rfl, Engine.withErr]

/-- Every command but NOP and CONFIGURE passes both guards before its body (60_exceptions.md R224). -/
theorem Engine.run_eq_command_true {i : Instr} (hi : i ≠ .cfg ∧ ∀ opa data, i ≠ .nop opa data) :
    ∃ body, ∀ e : Engine, e.run c i = e.command true body := by
  cases i
  case nop opa data => exact absurd rfl (hi.2 opa data)
  case cfg => exact absurd rfl hi.1
  all_goals exact ⟨_, fun _ => rfl⟩

/-- Those commands are `NOT_CONFIGURED` before a CONFIGURE (60_exceptions.md R224). -/
theorem Engine.run_of_not_configured {i : Instr} (hf : e.fault = false) (hc : e.configured = false)
    (hi : i ≠ .cfg ∧ ∀ opa data, i ≠ .nop opa data) : e.run c i = e.withErr .notConfigured := by
  obtain ⟨body, hrun⟩ := Engine.run_eq_command_true (c := c) hi
  rw [hrun, Engine.command_notConfigured hf rfl hc, Engine.raise_of_not_fatal rfl, Engine.withErr]

/-! ### The two fatal faults -/

/-- `COUNT_OVERFLOW` stops the byte before any change (60_exceptions.md R226). -/
theorem Engine.cmdUpd_of_total_max (hr : ready e) (ht : e.total.toNat = 2 ^ 64 - 1) :
    e.cmdUpd c b = { e with err := .countOverflow, fault := true } := by
  rw [Engine.cmdUpd_of_ready hr, Engine.byteStep, if_pos ht, Run.finish_raised,
    Engine.raise_of_fatal rfl]

theorem Engine.queueFull_iff : e.queueFull c = true ↔ c.qCap = some e.q.length := beq_iff_eq

/-- `QUEUE_OVERFLOW` stops a boundary byte once it is rolled and counted (60_exceptions.md R227). -/
theorem Engine.cmdUpd_of_queueFull (hr : ready e) (h : e.CountsExactly) (hs : ¬skips c e b)
    (hb : isBoundary c e b) (hq : c.qCap = some e.q.length) :
    e.cmdUpd c b = { countedAndRolled c e b with err := .queueOverflow, fault := true } := by
  have hfull : (countedAndRolled c e b).queueFull c = true := Engine.queueFull_iff.mpr hq
  rw [Engine.cmdUpd_of_ready hr, Engine.byteStep_of_boundary h hs hb, Engine.cut, if_pos hfull,
    Run.finish_raised, Engine.raise_of_fatal rfl]

/-- `QUEUE_OVERFLOW` stops a FINALIZE with bytes to flush before any change (60_exceptions.md R227). -/
theorem Engine.cmdFin_of_queueFull (hr : ready e) (hsize : e.chunkSize ≠ 0)
    (hq : c.qCap = some e.q.length) :
    e.cmdFin c = { e with err := .queueOverflow, fault := true } := by
  obtain ⟨hc, hf⟩ := hr
  rw [Engine.cmdFin, Engine.command_run hf fun _ => hc, if_pos ⟨hsize, Engine.queueFull_iff.mpr hq⟩,
    Run.finish_raised, Engine.raise_of_fatal rfl]

/-! ### How a word ends -/

/-- How a word that decodes to the given command, or to ILLEGAL, may leave the engine: one constructor
per outcome of 60_exceptions.md R221, with its cause and the commands that raise it. A non-fatal error
starts from the engine as it was (R222); what a success or a fault did before its end is left open. -/
inductive Engine.Ends (c : Config) (e : Engine) : Option Instr → Engine → Prop
  | success {i : Instr} {t : Engine} (hf : t.fault = false) : Ends c e (some i) (t.withErr .none)
  | cfgAvg (hf : e.fault = false) (havg : ¬∃ k, e.cfgAvg.toNat = 2 ^ k) :
      Ends c e (some .cfg) (e.withErr .cfgAvg)
  | cfgWindow (hf : e.fault = false) (hwin : e.cfgWindow = 0 ∨ c.winCap < e.cfgWindow.toNat ∨
      (c.tableStrategy = .const64 ∧ e.cfgWindow ≠ 64)) : Ends c e (some .cfg) (e.withErr .cfgWindow)
  | notConfigured {i : Instr} (hf : e.fault = false) (hc : e.configured = false)
      (hi : i ≠ .cfg ∧ ∀ opa data, i ≠ .nop opa data) : Ends c e (some i) (e.withErr .notConfigured)
  | illegalCmd (hf : e.fault = false) : Ends c e none (e.withErr .illegalCmd)
  | queueOverflow {i : Instr} {t : Engine} (hfull : t.queueFull c = true)
      (hi : (∃ b, i = .upd b) ∨ (∃ l, i = .updp l) ∨ i = .fin) :
      Ends c e (some i) (t.raise .queueOverflow)
  | countOverflow {i : Instr} {t : Engine} (hmax : t.total.toNat = 2 ^ 64 - 1)
      (hi : (∃ b, i = .upd b) ∨ ∃ l, i = .updp l) : Ends c e (some i) (t.raise .countOverflow)
  | halted {d : Option Instr} (hf : e.fault = true) : Ends c e d (e.withErr .halted)

/-- A command that needs a configured engine ends at a guard or as its body does. -/
theorem Engine.ends_command {i : Instr} {body : Engine → Run}
    (hi : i ≠ .cfg ∧ ∀ opa data, i ≠ .nop opa data)
    (hbody : e.fault = false → e.Ends c (some i) (body e).finish) :
    e.Ends c (some i) (e.command true body) := by
  rcases Engine.command_cases true body e with ⟨hf, heq⟩ | ⟨hf, -, hc, heq⟩ | ⟨hf, -, heq⟩ <;> rw [heq]
  · rw [Engine.raise_of_not_fatal rfl]
    exact .halted hf
  · rw [Engine.raise_of_not_fatal rfl]
    exact .notConfigured hf hc hi
  · exact hbody hf

theorem Engine.ends_cmdNop (opa : Byte) (data : BitVec 48) :
    e.Ends c (some (.nop opa data)) e.cmdNop := by
  rw [Engine.cmdNop_eq]
  by_cases hf : e.fault = true
  · rw [if_pos hf]
    exact .halted hf
  · rw [if_neg hf]
    exact .success (Bool.eq_false_of_not_eq_true hf)

/-- The causes of the two outcomes of `CheckConfig()` (42_chunker.md R151). -/
theorem Engine.ends_of_checkConfig (hf : e.fault = false) {r : ErrCode}
    (h : e.checkConfig c = some r) : e.Ends c (some .cfg) (e.withErr r) := by
  unfold Engine.checkConfig at h
  split_ifs at h with havg hwin hconst <;> obtain rfl := Option.some.inj h
  · exact .cfgAvg hf ((average_check_iff _).mp havg)
  · exact .cfgWindow hf (hwin.imp_right .inl)
  · exact .cfgWindow hf (.inr (.inr hconst))

theorem Engine.ends_cmdCfg (c : Config) (e : Engine) : e.Ends c (some .cfg) (e.cmdCfg c) := by
  cases hf : e.fault with
  | true =>
    rw [Engine.cmdCfg, Engine.command_halted hf, Engine.raise_of_not_fatal rfl]
    exact .halted hf
  | false =>
    cases h : e.checkConfig c with
    | none =>
      rw [Engine.cmdCfg_of_acceptable hf (Engine.checkConfig_eq_none_iff.mp h)]
      exact .success hf
    | some r =>
      have hfatal : r.fatal = false := by
        rcases Engine.checkConfig_eq_some h with rfl | rfl <;> rfl
      rw [Engine.cmdCfg_of_checkConfig hf h, Engine.raise_of_not_fatal hfatal]
      exact Engine.ends_of_checkConfig hf h

/-- Bytes end with one of the two faults, or all of them are fed (42_chunker.md R156). -/
theorem Engine.ends_feedBytes {i : Instr} (hi : (∃ b, i = .upd b) ∨ ∃ l, i = .updp l)
    (hf : t.fault = false) (bytes : List Byte) :
    e.Ends c (some i) (Engine.feedBytes c bytes t).finish := by
  induction bytes generalizing t with
  | nil => exact .success hf
  | cons b rest ih =>
    rcases Engine.byteStep_raises_or_feeds c t b with ⟨hmax, heq⟩ | ⟨hfull, heq⟩ | ⟨t', heq, hfed⟩
    · rw [Engine.feedBytes_cons_raised heq]
      exact .countOverflow hmax hi
    · rw [Engine.feedBytes_cons_raised heq]
      exact .queueOverflow hfull (hi.imp_right .inl)
    · rw [Engine.feedBytes_cons_done heq]
      exact ih (hfed.frame.fault.trans hf)

theorem Engine.ends_cmdUpdp {i : Instr} (hi : (∃ b, i = .upd b) ∨ ∃ l, i = .updp l)
    (bytes : List Byte) : e.Ends c (some i) (e.cmdUpdp c bytes) :=
  Engine.ends_command (by rcases hi with ⟨b, rfl⟩ | ⟨l, rfl⟩ <;> exact ⟨nofun, nofun⟩) fun hf =>
    Engine.ends_feedBytes hi hf bytes

theorem Engine.ends_cmdFin (c : Config) (e : Engine) : e.Ends c (some .fin) (e.cmdFin c) := by
  refine Engine.ends_command ⟨nofun, nofun⟩ fun hf => ?_
  split_ifs with hfull
  · exact .queueOverflow hfull.2 (.inr (.inr rfl))
  · rw [Engine.closeStream_frame]
    exact .success hf

/-- Every command ends with one of its outcomes, for that outcome's cause (60_exceptions.md R221). -/
theorem Engine.ends_run (c : Config) (e : Engine) (i : Instr) : e.Ends c (some i) (e.run c i) := by
  cases i with
  | nop opa data => exact Engine.ends_cmdNop opa data
  | cfg => exact e.ends_cmdCfg c
  | upd b =>
    rw [Engine.run, ← Engine.cmdUpdp_singleton]
    exact Engine.ends_cmdUpdp (.inl ⟨b, rfl⟩) [b]
  | updp bytes => exact Engine.ends_cmdUpdp (.inr ⟨bytes, rfl⟩) bytes
  | fin => exact e.ends_cmdFin c
  | pop =>
    rw [Engine.run, Engine.cmdPop]
    refine Engine.ends_command ⟨nofun, nofun⟩ fun hf => ?_
    rw [Engine.dequeue_frame]
    exact .success hf
  | roll b =>
    rw [Engine.run, Engine.cmdRoll]
    exact Engine.ends_command ⟨nofun, nofun⟩ fun hf => .success (t := e.roll b) hf
  | hrst =>
    rw [Engine.run, Engine.cmdHrst]
    exact Engine.ends_command ⟨nofun, nofun⟩ fun hf => .success (t := e.hashReset) hf

/-- Every word, legal or not, ends so (60_exceptions.md R221). -/
theorem Engine.ends_runWord (c : Config) (e : Engine) (w : Word) :
    e.Ends c (decode w) (e.runWord c w) := by
  cases hd : decode w with
  | some i => exact Engine.runWord_of_decode_some (c := c) hd ▸ e.ends_run c i
  | none =>
    cases hf : e.fault with
    | true => exact Engine.runWord_of_fault (c := c) hf w ▸ .halted hf
    | false => exact Engine.runWord_of_illegal (c := c) hf hd ▸ .illegalCmd hf

theorem Engine.Ends.err_ne_queueOverflow {d : Option Instr} (hcap : c.qCap = none)
    (h : e.Ends c d t) : t.err ≠ .queueOverflow := by
  cases h
  case queueOverflow t hfull hi => cases (Engine.queueFull_of_unbounded hcap t).symm.trans hfull
  all_goals nofun

/-! ### The statements -/

/-- Settles O9: the guard of every word comes first, and register accesses do not look at `FAULT`. -/
theorem faultedEngineIsHalted : Obligations.FaultedEngineIsHalted := by
  intro s e he hf
  have write {off : Nat} (v : Word) (h : off ≠ 0) :
      performWrite off v s = .next (s.setEngine (e.hostWrite off v)) := by
    rw [performWrite, if_neg (mt Register.ofOffset_eq_cmd.mp h), onEngine_eq_next he]
  refine ⟨fun w => ?_, rfl, fun off size h => (e.hostRead_isSome _ off size).trans h, fun v =>
    ⟨write v (by decide), write v (by decide), write v (by decide), write v (by decide),
      write v (by decide)⟩⟩
  rw [runWord_eq_next he (.inr hf), Engine.runWord_of_fault hf, Engine.withErr]

/-- Settles O10: NOP and CONFIGURE run, and the second guard stops every other command. -/
theorem unconfiguredEngineRefusesCommands : Obligations.UnconfiguredEngineRefusesCommands := by
  intro s e i he hf hc
  have refused (hi : i ≠ .cfg ∧ ∀ opa data, i ≠ .nop opa data) :
      exec i s = .next (s.setEngine { e with err := .notConfigured }) := by
    rw [exec_eq_next he, Engine.run_of_not_configured hf hc hi, Engine.withErr]
  cases i
  case nop opa data =>
    have hnop := exec_nop he opa data
    rw [if_neg (ne_true_of_eq_false hf)] at hnop
    exact hnop
  case cfg =>
    intro hok
    refine ⟨{ e.construct Config.build with err := .none }, rfl, rfl, ?_⟩
    rw [exec_eq_next he, Engine.run, Engine.cmdCfg_of_acceptable hf hok]
  all_goals exact ⟨refused ⟨nofun, nofun⟩, rfl⟩

/-- Settles O12: outcome by outcome of the word, each with its cause. -/
theorem outcomeCodes : Obligations.OutcomeCodes := by
  refine ⟨⟨rfl, rfl, rfl, rfl, rfl, rfl, rfl, rfl⟩, fun c e w => ?_⟩
  have h := e.ends_runWord c w
  generalize decode w = d, e.runWord c w = t at h ⊢
  cases h with
  | success hf => simpa using hf
  | cfgAvg hf havg => simpa using And.intro hf havg
  | cfgWindow hf hwin => simpa using ⟨hf, hwin⟩
  | notConfigured hf hc hi => simpa using ⟨hf, hc, hi⟩
  | illegalCmd hf => simpa using hf
  | queueOverflow hfull hi => simpa [ErrCode.fatal] using And.intro (Engine.queueFull_iff.mp hfull) hi
  | countOverflow hmax hi => simpa [ErrCode.fatal] using And.intro hmax hi
  | halted hf => simpa using hf

/-- Settles O13: the outcomes that are no fault are written to `ERR` of the engine as it was. -/
theorem nonFatalErrorsChangeNothingElse : Obligations.NonFatalErrorsChangeNothingElse := by
  intro c e w
  have h := e.ends_runWord c w
  generalize decode w = d, e.runWord c w = t at h ⊢
  cases h
  case success | queueOverflow | countOverflow => simp
  all_goals exact fun _ => rfl

/-- Settles O14: each premise reaches one test of the order and fails those before it. -/
theorem outcomePriority : Obligations.OutcomePriority := by
  intro c e w
  refine ⟨fun hf => ?_, fun hf hd => ?_, fun hf hc ⟨i, hd, hi⟩ => ?_, fun hf hd havg => ?_,
    fun hf hd havg hbad => ?_, fun b hr hd ht => ?_, fun b hr hd ht ha hle hs hb hq => ?_⟩
  · rw [Engine.runWord_of_fault hf, Engine.withErr_err]
  · rw [Engine.runWord_of_illegal hf hd, Engine.withErr_err]
  · rw [Engine.runWord_of_decode_some hd, Engine.run_of_not_configured hf hc hi, Engine.withErr_err]
  · rw [Engine.runWord_of_decode_some hd, Engine.run,
      Engine.cmdCfg_of_checkConfig hf (Engine.checkConfig_eq_cfgAvg havg), Engine.raise_err]
  · rw [Engine.runWord_of_decode_some hd, Engine.run,
      Engine.cmdCfg_of_checkConfig hf (Engine.checkConfig_eq_cfgWindow havg hbad), Engine.raise_err]
  · rw [Engine.runWord_of_decode_some hd, Engine.run, Engine.cmdUpd_of_total_max hr ht]
  · rw [Engine.runWord_of_decode_some hd, Engine.run,
      Engine.cmdUpd_of_queueFull hr ⟨ht, hle, ha⟩ hs hb hq]

/-- Settles O35: the bound is tested before the byte is accounted for. -/
theorem countOverflowStopsEngine : Obligations.CountOverflowStopsEngine := by
  intro s e b he hr ht
  rw [exec_eq_next he, Engine.run, Engine.cmdUpd_of_total_max hr ht]
  exact ⟨rfl, rfl⟩

/-- Settles O36: a boundary byte and FINALIZE find the queue full, and no command finds an unbounded
queue full. -/
theorem queueOverflowStopsEngine : Obligations.QueueOverflowStopsEngine := by
  refine fun c e hr => ⟨rfl, fun hq => ⟨fun b ht hle ha hs hb => ?_, fun hsize => ?_⟩,
    fun hcap i => (e.ends_run c i).err_ne_queueOverflow hcap⟩
  · exact Engine.cmdUpd_of_queueFull hr ⟨ht, hle, ha⟩ hs hb hq
  · exact Engine.cmdFin_of_queueFull hr hsize hq

end Sys2Proof.Machine
end

section
/-! PROOFS. Power-on reset (70_reset_and_hazards.md R250): it alone can write FAULT or CONFIGURED from 1
to 0, because every other step leaves an engine as it was or gives it the effect of a host write. -/

namespace Sys2Proof.Machine

variable {c : Config} {e : Engine}

/-! ### The engine of one instance over a step -/

/-- Replacing the current engine keeps the owner of its instance. -/
theorem State.getElem?_setEngine_cur {s : State} {p : EngineInstance}
    (h : s.instances[s.cur.toNat]? = some p) (t : Engine) :
    (s.setEngine t).instances[s.cur.toNat]? = some { p with engine := t } := by
  simp [h]

/-- Everything a step other than power-on reset can do to one instance: nothing, or a host write to its
engine. -/
theorem getElem?_instances_of_step {s s' : State} {j : Nat} {p : EngineInstance}
    (hstep : step s = .next s') (hp : s.instances[j]? = some p)
    (hhead : s.pending.head? ≠ some .powerOnReset) :
    s'.instances[j]? = some p ∨
      ∃ off v, s'.instances[j]? = some { p with engine := p.engine.writeEffect off v } := by
  rcases step_cases s with ⟨-, heq⟩ | ⟨rest, hrest, -⟩ | ⟨a, rest, -, heq⟩
  · obtain rfl := Host.Outcome.next.inj (heq.symm.trans hstep)
    exact .inl hp
  · exact absurd (congrArg List.head? hrest) hhead
  · rcases perform_eq_next (heq.symm.trans hstep) with ⟨v, rfl⟩ | ⟨q, v, hq, rfl⟩
    · exact .inl hp
    · by_cases hj : j = a.inst.toNat
      · subst hj
        obtain rfl : p = q := Option.some.inj (hp.symm.trans hq)
        exact .inr ⟨_, v, State.getElem?_setEngine_cur hq _⟩
      · exact .inl ((State.getElem?_setEngine_of_ne _ _ hj).trans hp)

/-- A power-on reset event resets the machine (70_reset_and_hazards.md R250). -/
theorem step_of_powerOnReset {s : State} {rest : List HostEvent}
    (h : s.pending = .powerOnReset :: rest) :
    step s = .next ({ s with pending := rest } : State).powerOn := by
  simp [step, nextEvent, h, handle]

/-! ### FAULT and CONFIGURED over a host write -/

/-- CONFIGURE sets CONFIGURED or reports an outcome, and no other command writes it
(10_state.md R22; 42_chunker.md R152). -/
theorem Engine.configured_run (hc : e.configured = true) (i : Instr) :
    (e.run c i).configured = true := by
  by_cases hi : i = .cfg
  · subst hi
    rw [Engine.run]
    rcases Engine.cmdCfg_cases c e with ⟨r, heq⟩ | heq <;> rw [heq]
    · exact hc
    · rfl
  · have hkept : (e.run c i).configured = e.configured :=
      (congrArg Engine.configured (Engine.configuration_run hi) :)
    exact hkept.trans hc

/-- No host write, to CMD or not, clears FAULT (60_exceptions.md R223). -/
theorem Engine.fault_writeEffect (hf : e.fault = true) (off : Nat) (v : Word) :
    (e.writeEffect off v).fault = true := by
  rcases Engine.writeEffect_cases off v e with ⟨i, heq⟩ | heq | heq <;> rw [heq]
  · rw [Engine.run_of_fault hf, Engine.withErr_fault, hf]
  · rw [Engine.illegalWord, if_pos hf, Engine.raise_fault, hf, Bool.true_or]
  · obtain ⟨_, _, _, _, _, -, hstaged⟩ := Engine.hostWrite_stages off v e
    rw [hstaged]
    exact hf

/-- No host write, to CMD or not, clears CONFIGURED. -/
theorem Engine.configured_writeEffect (hc : e.configured = true) (off : Nat) (v : Word) :
    (e.writeEffect off v).configured = true := by
  rcases Engine.writeEffect_cases off v e with ⟨i, heq⟩ | heq | heq <;> rw [heq]
  · exact Engine.configured_run hc i
  · rcases e.illegalWord_cases with ⟨-, hill⟩ | ⟨-, hill⟩ <;> rw [hill, Engine.raise_configured, hc]
  · obtain ⟨_, _, _, _, _, -, hstaged⟩ := Engine.hostWrite_stages off v e
    rw [hstaged]
    exact hc

/-! ### The statement -/

/-- Settles O54: power-on reset resets every instance, and each other step leaves an instance as it was
or writes to it, which clears neither bit. -/
theorem onlyPowerOnClearsFault : Obligations.OnlyPowerOnClearsFault := by
  refine fun s => ⟨fun rest hrest => ?_, fun s' j p hstep hp hhead => ?_⟩
  · exact ⟨_, step_of_powerOnReset hrest, rfl, rfl⟩
  · rcases getElem?_instances_of_step hstep hp hhead with hp' | ⟨off, v, hp'⟩
    · exact ⟨p, hp', id, id⟩
    · exact ⟨_, hp', (Engine.fault_writeEffect · off v), (Engine.configured_writeEffect · off v)⟩

end Sys2Proof.Machine
end
